-- ==== Sys2Proof/Word.lean ====
section
/-! DEFINITION. The machine's words (spec/00_scope.md R9): a byte is 8 bits, a word 32 bits, a lane 64 bits.
Their arithmetic is that of `BitVec`: `+` is addition modulo 2^N, and the operators `&&&`, `|||`, `^^^` and
`~~~` are the bitwise AND, OR, XOR and complement of R10. -/

namespace Sys2Proof

/-- A byte (R9). -/
abbrev Byte := BitVec 8

/-- A 32-bit word (R9). -/
abbrev Word := BitVec 32

/-- A 64-bit lane (R9); also the width of every interface register (10_state.md R22). -/
abbrev Lane := BitVec 64

/-- A 128-bit counter (10_state.md R31, R35). -/
abbrev Counter := BitVec 128

end Sys2Proof
end

