-- ==== Sys2Proof/Syntax.lean ====
section
/-! DEFINITION. The commands, one constructor per mnemonic of spec/opcode_table.json, and the twelve
algorithm families of 00_scope.md R8. A command's operands are the ARG registers (30_encoding.md R93), which
are state, so only CONFIGURE_UNSUPPORTED carries a field: its ALG code. -/

namespace Sys2Proof

/-- The algorithm families (00_scope.md R8). -/
inductive Alg where
  | md2 | md4 | md5 | sha1 | sha2_256 | sha2_512 | sha3 | shake128 | shake256 | ripemd128 | ripemd160 | blake2b
  deriving DecidableEq, Repr

/-- The commands (30_encoding.md R91, R97). -/
inductive Instr where
  | configureMd2
  | configureMd4
  | configureMd5
  | configureSha1
  | configureSha2_256
  | configureSha2_512
  | configureSha3
  | configureShake128
  | configureShake256
  | configureRipemd128
  | configureRipemd160
  | configureBlake2b
  /-- A CONFIGURE whose ALG code names no supported family (30_encoding.md R92). -/
  | configureUnsupported (alg : Byte)
  | input
  | digest
  | digest0
  | reset
  deriving DecidableEq, Repr

end Sys2Proof
end

