-- ==== Sys2Proof/WellFormed.lean ====
section
/-! DEFINITION. Which terms of `Instr` stand for a command value. -/

namespace Sys2Proof

/-- The ALG codes that name no supported family: 0 and 13 to 255 (30_encoding.md R92). -/
def unsupportedCode (alg : Byte) : Bool := alg == 0 || 13 ≤ alg.toNat

/-- A term is well formed when its ALG field is one its mnemonic may carry (30_encoding.md R97). -/
def Instr.wellFormed : Instr → Bool
  | .configureUnsupported alg => unsupportedCode alg
  | .configureMd2 | .configureMd4 | .configureMd5 | .configureSha1 | .configureSha2_256 | .configureSha2_512
  | .configureSha3 | .configureShake128 | .configureShake256 | .configureRipemd128 | .configureRipemd160
  | .configureBlake2b | .input | .digest | .digest0 | .reset => true

end Sys2Proof
end

