-- ==== Sys2Proof/Decode.lean ====
section
/-! DEFINITION. The decoder of 30_encoding.md R96, total on any 64-bit value and on any bytes, rejecting by
name; after it the encoder of R97. -/

namespace Sys2Proof

/-- Why a command value is illegal (30_encoding.md R95), or why bytes are no command value. -/
inductive DecodeError where
  /-- RSV, bits 63 to 16, is not 0 (R95, condition 2). -/
  | reservedNotZero
  /-- OP is not 0x01 and ALG is not 0 (R95, condition 3). -/
  | algNotZero
  /-- OP is outside 0x01 to 0x05 (R95, condition 1). -/
  | noSuchOpcode
  /-- A command is one 64-bit value: eight bytes, no fewer and no more (R90). -/
  | notEightBytes
  deriving DecidableEq, Repr

/-- The OP field, bits 7 to 0 (30_encoding.md R90). -/
def opField (v : Lane) : Byte := v.extractLsb' 0 8

/-- The ALG field, bits 15 to 8 (30_encoding.md R90). -/
def algField (v : Lane) : Byte := v.extractLsb' 8 8

/-- The RSV field, bits 63 to 16 (30_encoding.md R90). -/
def rsvField (v : Lane) : BitVec 48 := v.extractLsb' 16 48

/-- The ALG code of a family (00_scope.md R8). -/
def Alg.code : Alg → Byte
  | .md2 => 1
  | .md4 => 2
  | .md5 => 3
  | .sha1 => 4
  | .sha2_256 => 5
  | .sha2_512 => 6
  | .sha3 => 7
  | .shake128 => 8
  | .shake256 => 9
  | .ripemd128 => 10
  | .ripemd160 => 11
  | .blake2b => 12

/-- CONFIGURE's ALG field (30_encoding.md R92): the twelve codes of 00_scope.md R8, any other unsupported. -/
def decodeConfigure (alg : Byte) : Instr :=
  match alg.toNat with
  | 1 => .configureMd2
  | 2 => .configureMd4
  | 3 => .configureMd5
  | 4 => .configureSha1
  | 5 => .configureSha2_256
  | 6 => .configureSha2_512
  | 7 => .configureSha3
  | 8 => .configureShake128
  | 9 => .configureShake256
  | 10 => .configureRipemd128
  | 11 => .configureRipemd160
  | 12 => .configureBlake2b
  | _ => .configureUnsupported alg

/-- `Decode(v)` (30_encoding.md R96), its checks in the rule's order. -/
def decode (v : Lane) : Except DecodeError Instr :=
  if rsvField v ≠ 0 then .error .reservedNotZero
  else if opField v = 0x01 then .ok (decodeConfigure (algField v))
  else if algField v ≠ 0 then .error .algNotZero
  else if opField v = 0x02 then .ok .input
  else if opField v = 0x03 then .ok .digest
  else if opField v = 0x04 then .ok .digest0
  else if opField v = 0x05 then .ok .reset
  else .error .noSuchOpcode

/-- A number from its bytes, the first the least significant: the order of the register bus (20_memory.md R64). -/
def leNat : List Byte → Nat
  | [] => 0
  | b :: bs => b.toNat + 256 * leNat bs

/-- The `n` low bytes of a number, the least significant first (00_scope.md R11, `putLE`). -/
def putLe : (n : Nat) → (v : Nat) → List Byte
  | 0, _ => []
  | n + 1, v => BitVec.ofNat 8 v :: putLe n (v / 256)

/-- Decoding of the eight bytes of a command value as they lie on the bus (20_memory.md R64). -/
def decodeBytes (bs : List Byte) : Except DecodeError Instr :=
  if bs.length = 8 then decode (BitVec.ofNat 64 (leNat bs)) else .error .notEightBytes

/-- A command value from its OP and ALG fields, RSV being 0 (30_encoding.md R90). -/
def commandWord (op alg : Byte) : Lane := (0 : BitVec 48) ++ alg ++ op

/-- The command value of a command (30_encoding.md R97). -/
def encode : Instr → Lane
  | .configureMd2 => commandWord 0x01 1
  | .configureMd4 => commandWord 0x01 2
  | .configureMd5 => commandWord 0x01 3
  | .configureSha1 => commandWord 0x01 4
  | .configureSha2_256 => commandWord 0x01 5
  | .configureSha2_512 => commandWord 0x01 6
  | .configureSha3 => commandWord 0x01 7
  | .configureShake128 => commandWord 0x01 8
  | .configureShake256 => commandWord 0x01 9
  | .configureRipemd128 => commandWord 0x01 10
  | .configureRipemd160 => commandWord 0x01 11
  | .configureBlake2b => commandWord 0x01 12
  | .configureUnsupported alg => commandWord 0x01 alg
  | .input => commandWord 0x02 0
  | .digest => commandWord 0x03 0
  | .digest0 => commandWord 0x04 0
  | .reset => commandWord 0x05 0

/-- The host's question: the instruction read from a table row's word, its first `nbits` bits given by `w`,
laid out as the eight bytes of the bus. -/
def decodeTableWord (nbits w : Nat) : Option Instr :=
  (decodeBytes (putLe 8 (w % 2 ^ nbits))).toOption

end Sys2Proof
end

