-- ==== Sys2Proof/Config.lean ====
section
/-! DEFINITION. What an implementation fixes: the open parameters of spec/00_scope.md R7, as constants with no
body (notes/assumptions/2.md), and the fixed sizes. No rule depends on a value of the former. -/

namespace Sys2Proof

/-- HMSIZE, the bytes of host memory the engine can reach: open, 0 ≤ HMSIZE ≤ 2^63 (00_scope.md R7). -/
opaque Config.hmSize : Fin (2 ^ 63 + 1)

/-- The instances beyond the first, so that NINST ≥ 1 holds by form (00_scope.md R7). -/
opaque Config.furtherInstances : Nat

/-- REGBASE, the host bus address of instance 0's window: open (00_scope.md R7). -/
opaque Config.regBase : Nat

/-- NINST, the number of instances: open, at least 1 (00_scope.md R7). -/
def Config.ninst : Nat := Config.furtherInstances + 1

/-- MAXBLK, the size of the block buffer (00_scope.md R7). -/
abbrev Config.maxBlk : Nat := 168

/-- The stride between the register windows of two instances (20_memory.md R69). -/
abbrev Config.windowStride : Nat := 0x100

end Sys2Proof
end

