-- ==== Sys2Proof/Machine/State.lean ====
section
/-! DEFINITION. The state of the machine (spec/10_state.md, 20_memory.md R60), as plain data, and its value
after hardware reset (70_reset_and_hazards.md R400). -/

namespace Sys2Proof.Machine

/-- The codes STATUS.ERR holds (60_exceptions.md R372); 6 to 15 are never written. -/
inductive ErrCode where
  | ok
  | invalidArgument
  | invalidConfiguration
  | internalInvariant
  | illegalCommand
  | notConfigured
  deriving DecidableEq, Repr

/-- The configuration fields, written together by CONFIGURE (10_state.md R29). -/
structure Cfg where
  /-- ST.ALG; `none` is code 0, unconfigured. -/
  alg : Option Alg
  /-- ST.DSZ, the SHA-2 or SHA-3 digest size in bits, 0 for other algorithms. -/
  dsz : BitVec 16
  /-- ST.DLEN, the digest length in bytes. -/
  dlen : BitVec 64
  /-- ST.BLK, the block size in bytes. -/
  blk : BitVec 8
  /-- ST.KEY, the BLAKE2b key, zero above KEYLEN. -/
  key : Vector Byte 64
  /-- ST.KEYLEN. -/
  keyLen : BitVec 7
  deriving DecidableEq, Repr

/-- The working state of an engine (10_state.md R30 to R35). -/
structure Engine where
  /-- ST.BUF (R30). -/
  buf : Vector Byte 168
  /-- ST.OFF (R30). -/
  off : BitVec 8
  /-- ST.LEN, in bits (R31). -/
  len : Counter
  /-- ST.H, the Merkle–Damgård registers (R32). -/
  mdH : Vector Lane 8
  /-- ST.X, the MD2 chaining state (R33). -/
  md2X : Vector Byte 16
  /-- ST.C, the MD2 checksum (R33). -/
  md2C : Vector Byte 16
  /-- ST.A, the Keccak lanes, lane (x, y) at index x + 5y (R34). -/
  lanes : Vector Lane 25
  /-- ST.h, the BLAKE2b chaining values (R35). -/
  blakeH : Vector Lane 8
  /-- ST.T, the BLAKE2b byte counter (R35). -/
  blakeT : Counter
  /-- ST.PEND (R35). -/
  pend : Bool
  /-- ST.PB, the pending block (R35). -/
  pb : Vector Byte 128
  deriving DecidableEq, Repr

/-- One engine instance: its interface registers (10_state.md R22 to R26) and internal state (R29 to R35).
CMD holds nothing (R23); DLENR, BLKR and ALGR are views of `cfg` (R27). -/
structure Inst where
  arg0 : Lane
  arg1 : Lane
  arg2 : Lane
  arg3 : Lane
  /-- STATUS.ERR (R25). -/
  err : ErrCode
  /-- STATUS.CONFIGURED (R25). -/
  configured : Bool
  /-- STATUS.FATAL (R25). -/
  fatal : Bool
  /-- RESULT (R26). -/
  result : Lane
  cfg : Cfg
  eng : Engine
  deriving DecidableEq, Repr

/-- One access of the host's program (70_reset_and_hazards.md R411, 30_encoding.md R98). A register access
names its instance and the byte offset in that instance's 0x100-byte window (10_state.md R22), and its width
in bytes. -/
inductive HostAccess where
  /-- A write to an interface register. -/
  | regWrite (inst : Nat) (offset : BitVec 8) (width : Nat) (value : Lane)
  /-- A read of an interface register. -/
  | regRead (inst : Nat) (offset : BitVec 8) (width : Nat)
  /-- The host stores a byte to HM (20_memory.md R71). -/
  | hmStore (addr : Nat) (value : Byte)
  /-- The host loads a byte of HM (20_memory.md R71). -/
  | hmLoad (addr : Nat)
  /-- The platform's hardware reset of the block (70_reset_and_hazards.md R400). -/
  | hardwareReset
  deriving DecidableEq, Repr

/-- The listed bytes of HM, addresses strictly rising (see `Memory.wf` in Ops.lean). -/
abbrev Memory := List Host.Cell

/-- The whole machine: HM, the instances that share it, and the host's remaining accesses. -/
structure State where
  /-- HM (20_memory.md R60). -/
  hm : Memory
  /-- HMSIZE (00_scope.md R7); nothing writes it. -/
  hmSize : Fin (2 ^ 63 + 1)
  /-- The NINST instances, in window order (10_state.md R22). -/
  instances : List Inst
  /-- The model's own field: the instance whose CMD register the current command was written to. -/
  sel : Nat
  /-- The model's own field: the host's accesses still to come, oldest first. -/
  program : List HostAccess
  /-- The model's own field: what the most recent host read returned. -/
  readData : Lane
  deriving DecidableEq, Repr

/-- Accesses to addresses that do not exist. -/
inductive Fault where
  /-- A register access, or a command, for an instance number that is not below NINST: no window lies there
  (10_state.md R22). Raised by every command and by every register access. Safe: the model stops. -/
  | noSuchInstance
  /-- A host access to an HM address that is not below HMSIZE (20_memory.md R60). Raised by the host's HM
  loads and stores only; a command checks its region instead (R61). Safe: the model stops. -/
  | noSuchMemory
  deriving DecidableEq, Repr

/-- What the model gives no meaning to. -/
inductive Refusal where
  /-- An instruction that has no meaning yet. No arm of `exec` uses it. Safe. -/
  | notModelled (mnemonic : String)
  /-- A register access that is not an aligned 64-bit one, outside the specification (10_state.md R28).
  Raised by the host's register accesses only, by no command. Safe: the model stops. -/
  | notAligned64
  deriving DecidableEq, Repr

/-- The configuration fields of an unconfigured instance (70_reset_and_hazards.md R400). -/
def Cfg.zero : Cfg :=
  { alg := none, dsz := 0, dlen := 0, blk := 0, key := Vector.replicate 64 0, keyLen := 0 }

/-- Every field of the engine's working state 0 (70_reset_and_hazards.md R400, 40_buffering_engine.md R129). -/
def Engine.zero : Engine :=
  { buf := Vector.replicate 168 0, off := 0, len := 0, mdH := Vector.replicate 8 0,
    md2X := Vector.replicate 16 0, md2C := Vector.replicate 16 0, lanes := Vector.replicate 25 0,
    blakeH := Vector.replicate 8 0, blakeT := 0, pend := false, pb := Vector.replicate 128 0 }

/-- An instance after hardware reset (70_reset_and_hazards.md R400). -/
def Inst.zero : Inst :=
  { arg0 := 0, arg1 := 0, arg2 := 0, arg3 := 0, err := .ok, configured := false, fatal := false, result := 0,
    cfg := Cfg.zero, eng := Engine.zero }

/-- The machine at power-on, for any values of the open parameters HMSIZE and NINST (00_scope.md R7) and any
contents of HM, which are a free input (70_reset_and_hazards.md R400): every instance is as hardware reset leaves
it, and no access of the host has begun. -/
def State.powerOn (hmSize : Fin (2 ^ 63 + 1)) (ninst : Nat) (hm : Memory) : State :=
  { hm := hm, hmSize := hmSize, instances := List.replicate ninst Inst.zero, sel := 0, program := [],
    readData := 0 }

/-- The machine after hardware reset with no byte of HM listed: the one power-on state the interface names
(notes/assumptions/1.md). -/
def State.reset : State := State.powerOn Config.hmSize Config.ninst []

end Sys2Proof.Machine
end

