-- ==== Sys2Proof/Machine/Ops.lean ====
section
/-! DEFINITION. The shared operations: host memory, the selected instance, ending a command with an error,
and the checks every command makes first. -/

namespace Sys2Proof.Machine

/-! ### Host memory -/

/-- What an unlisted address of HM reads as. DESIGN CHOICE (notes/assumptions/1.md): as a way to list bytes it
shuts no contents out, for `State.powerOn` takes any list; it is unsafe for `State.reset` alone, which lists none
(70_reset_and_hazards.md R400). -/
def Memory.fill : Byte := 0

/-- `MemRead(a, 1)` (00_scope.md R12). -/
def Memory.read : Memory → Nat → Byte
  | [], _ => Memory.fill
  | (b, v) :: m, a => if a = b then v else Memory.read m a

/-- `MemWrite(a, 1, v)` (00_scope.md R12), keeping the canonical form. -/
def Memory.write : Memory → Nat → Byte → Memory
  | [], a, v => if v = Memory.fill then [] else [(a, v)]
  | (b, w) :: m, a, v =>
    if a < b then (if v = Memory.fill then (b, w) :: m else (a, v) :: (b, w) :: m)
    else if a = b then (if v = Memory.fill then m else (a, v) :: m)
    else (b, w) :: Memory.write m a v

/-- The canonical form: addresses strictly rising, no entry equal to what an unlisted address reads as. -/
def Memory.wf : Memory → Bool
  | [] => true
  | (a, v) :: m => decide (v ≠ Memory.fill) && m.all (fun c => decide (a < c.1)) && Memory.wf m

/-- Every listed address lies in HM, below `size` (20_memory.md R60). -/
def Memory.below (m : Memory) (size : Nat) : Bool := m.all fun c => decide (c.1 < size)

/-- The `n` bytes from address `a`, read in ascending order (20_memory.md R66). -/
def Memory.readBytes (m : Memory) : (a n : Nat) → List Byte
  | _, 0 => []
  | a, n + 1 => m.read a :: Memory.readBytes m (a + 1) n

/-- Bytes written from address `a` in ascending order (20_memory.md R66). -/
def Memory.writeBytes : (m : Memory) → (a : Nat) → List Byte → Memory
  | m, _, [] => m
  | m, a, b :: bs => Memory.writeBytes (m.write a b) (a + 1) bs

/-- `Valid(base, size)`: the region lies in HM (20_memory.md R61), over the integers. -/
def validRegion (hmSize : Nat) (base size : Int) : Bool :=
  decide (0 ≤ base) && decide (0 ≤ size) && decide (base + size ≤ hmSize)

/-! ### The selected instance -/

/-- Direct the next command to instance `k` (10_state.md R22). -/
def State.select (s : State) (k : Nat) : State := { s with sel := k }

/-- The instance the current command was written to. -/
def State.inst? (s : State) : Option Inst := s.instances[s.sel]?

/-- Put back the instance the current command was written to. -/
def State.commit (s : State) (I : Inst) : State := { s with instances := s.instances.set s.sel I }

/-! ### How a command ends

There is no trap entry and no return from one (60_exceptions.md R380): a failed command writes STATUS.ERR and
nothing else, and the next command runs normally. -/

/-- Every command ends by writing STATUS.ERR (10_state.md R25). -/
def Inst.withErr (I : Inst) (e : ErrCode) : Inst := { I with err := e }

/-- `raise E`: write the code to STATUS.ERR and change nothing else (00_scope.md R13, 60_exceptions.md R378). -/
def raise (e : ErrCode) (I : Inst) (s : State) : Host.Outcome State Fault Refusal :=
  .next (s.commit (I.withErr e))

/-- `fatal`: set STATUS.FATAL and write INTERNAL_INVARIANT (00_scope.md R13, 60_exceptions.md R375). -/
def raiseFatal (I : Inst) (s : State) : Host.Outcome State Fault Refusal :=
  .next (s.commit { I with fatal := true, err := .internalInvariant })

/-! ### The checks before a command's own -/

/-- Begin a command on the selected instance: with FATAL set it only writes INTERNAL_INVARIANT
(40_buffering_engine.md R120). -/
def issue (s : State) (body : Inst → Host.Outcome State Fault Refusal) : Host.Outcome State Fault Refusal :=
  match s.inst? with
  | none => .fault .noSuchInstance
  | some I => if I.fatal then raise .internalInvariant I s else body I

/-- Begin a command other than CONFIGURE: then it also needs a configuration (40_buffering_engine.md R120,
60_exceptions.md R373). -/
def issueConfigured (s : State) (body : Inst → Host.Outcome State Fault Refusal) :
    Host.Outcome State Fault Refusal :=
  issue s fun I => if I.configured then body I else raise .notConfigured I s

/-- A CMD write whose value is illegal (60_exceptions.md R374). -/
def illegalCommand (s : State) : Host.Outcome State Fault Refusal :=
  issue s fun I => raise .illegalCommand I s

end Sys2Proof.Machine
end

