-- ==== Sys2Proof/Machine/Flags.lean ====
section
/-! DEFINITION. The STATUS flags and the read-only views of the interface (10_state.md R25 to R27). CHC has no
condition codes (R37). -/

namespace Sys2Proof.Machine

/-- The numeric error codes (60_exceptions.md R372). -/
def ErrCode.code : ErrCode → BitVec 4
  | .ok => 0
  | .invalidArgument => 1
  | .invalidConfiguration => 2
  | .internalInvariant => 3
  | .illegalCommand => 4
  | .notConfigured => 5

/-- STATUS as the host reads it: ERR in 3:0, CONFIGURED in 8, FATAL in 9, the rest 0 (10_state.md R25). -/
def Inst.status (I : Inst) : Lane :=
  (0 : BitVec 54) ++ BitVec.ofBool I.fatal ++ BitVec.ofBool I.configured ++ (0 : BitVec 4) ++ I.err.code

/-- DLENR reads ST.DLEN (10_state.md R27). -/
def Inst.dlenr (I : Inst) : Lane := I.cfg.dlen

/-- BLKR reads ST.BLK (10_state.md R27). -/
def Inst.blkr (I : Inst) : Lane := I.cfg.blk.setWidth 64

/-- The code of ST.ALG, 0 while unconfigured (10_state.md R29). -/
def Cfg.algCode (c : Cfg) : Byte :=
  match c.alg with
  | none => 0
  | some a => a.code

/-- ALGR reads ST.ALG in bits 7:0, the rest 0 (10_state.md R27). -/
def Inst.algr (I : Inst) : Lane := I.cfg.algCode.setWidth 64

end Sys2Proof.Machine
end

