-- ==== Sys2Proof/Machine/Operands.lean ====
section
/-! DEFINITION. Operand forms: the ARG registers as signed integers (00_scope.md R12, 30_encoding.md R94), and
the byte-order loads and stores of 00_scope.md R11. A load past the end of a sequence takes 0 for a missing
byte; every hook is called with a whole block (40_buffering_engine.md R131), so no rule depends on it. -/

namespace Sys2Proof.Machine

/-- `ARG[0]`, the signed reading (00_scope.md R12). -/
def Inst.argInt0 (I : Inst) : Int := I.arg0.toInt

/-- `ARG[1]`. -/
def Inst.argInt1 (I : Inst) : Int := I.arg1.toInt

/-- `ARG[2]`. -/
def Inst.argInt2 (I : Inst) : Int := I.arg2.toInt

/-- `ARG[3]`. -/
def Inst.argInt3 (I : Inst) : Int := I.arg3.toInt

/-- The subsequence of `n` bytes from byte `i` (00_scope.md R11). -/
def bytesAt (b : List Byte) (i n : Nat) : List Byte := (b.drop i).take n

/-- A number from its bytes, the first the most significant. -/
def beNat (bs : List Byte) : Nat := leNat bs.reverse

/-- `LE32(b, i)` (00_scope.md R11). -/
def le32 (b : List Byte) (i : Nat) : Word := BitVec.ofNat 32 (leNat (bytesAt b i 4))

/-- `BE32(b, i)` (00_scope.md R11). -/
def be32 (b : List Byte) (i : Nat) : Word := BitVec.ofNat 32 (beNat (bytesAt b i 4))

/-- `LE64(b, i)` (00_scope.md R11). -/
def le64 (b : List Byte) (i : Nat) : Lane := BitVec.ofNat 64 (leNat (bytesAt b i 8))

/-- `BE64(b, i)` (00_scope.md R11). -/
def be64 (b : List Byte) (i : Nat) : Lane := BitVec.ofNat 64 (beNat (bytesAt b i 8))

/-- The `n` low bytes of a number, the most significant first (00_scope.md R11, `putBE`). -/
def putBe (n v : Nat) : List Byte := (putLe n v).reverse

/-- `putLE32(w)` (00_scope.md R11). -/
def putLe32 (w : Word) : List Byte := putLe 4 w.toNat

/-- `putBE32(w)` (00_scope.md R11). -/
def putBe32 (w : Word) : List Byte := putBe 4 w.toNat

/-- `putLE64(w)` (00_scope.md R11). -/
def putLe64 (w : Lane) : List Byte := putLe 8 w.toNat

/-- `putBE64(w)` (00_scope.md R11). -/
def putBe64 (w : Lane) : List Byte := putBe 8 w.toNat

/-- `rotl_N(v, k)` (00_scope.md R10). -/
def rotl {N : Nat} (v : BitVec N) (k : Nat) : BitVec N := v.rotateLeft k

/-- `rotr_N(v, k)` (00_scope.md R10). -/
def rotr {N : Nat} (v : BitVec N) (k : Nat) : BitVec N := v.rotateRight k

/-- `0^n`, n zero bytes (00_scope.md R11). -/
def zeros (n : Nat) : List Byte := List.replicate n 0

/-- A sequence as an array of `n` bytes, zero-filled (for example `key ‖ 0^(64 − |key|)`). -/
def padVec (n : Nat) (bs : List Byte) : Vector Byte n := Vector.ofFn fun i => bs.getD i.1 0

end Sys2Proof.Machine
end

