-- ==== Sys2Proof/Machine/Access.lean ====
section
/-! DEFINITION. The host's accesses that are no command: the register window (spec/10_state.md R22 to R28), the
bytes of HM (20_memory.md R60, R71), and hardware reset (70_reset_and_hazards.md R400). -/

namespace Sys2Proof.Machine

/-- The instance number and window offset of a host bus address, from REGBASE and the stride of R22; none
below REGBASE. Addresses of instances at or above NINST fault when accessed. -/
def windowOf (regBase addr : Nat) : Option (Nat × BitVec 8) :=
  if regBase ≤ addr then
    some ((addr - regBase) / Config.windowStride, BitVec.ofNat 8 ((addr - regBase) % Config.windowStride))
  else none

/-- The host bus address of an offset in an instance's window (R22). -/
def busAddress (regBase k : Nat) (offset : BitVec 8) : Nat := regBase + Config.windowStride * k + offset.toNat

/-- The slot of CMD (R22). -/
def cmdOffset : BitVec 8 := 0x00

/-- An aligned 64-bit access (R28). -/
def aligned64 (offset : BitVec 8) (width : Nat) : Bool := decide (width = 8) && decide (offset.toNat % 8 = 0)

/-- What a legal read of the slot at `offset` returns: CMD and the reserved slots read 0 (R22, R28). -/
def Inst.readSlot (I : Inst) (offset : BitVec 8) : Lane :=
  match offset.toNat with
  | 0x08 => I.arg0
  | 0x10 => I.arg1
  | 0x18 => I.arg2
  | 0x20 => I.arg3
  | 0x28 => I.status
  | 0x30 => I.result
  | 0x38 => I.dlenr
  | 0x40 => I.blkr
  | 0x48 => I.algr
  | _ => 0

/-- A legal write of a slot other than CMD: the ARG registers take the value, every other slot ignores it
(R22, R28). -/
def Inst.writeSlot (I : Inst) (offset : BitVec 8) (v : Lane) : Inst :=
  match offset.toNat with
  | 0x08 => { I with arg0 := v }
  | 0x10 => { I with arg1 := v }
  | 0x18 => { I with arg2 := v }
  | 0x20 => { I with arg3 := v }
  | _ => I

/-- A register write that starts no command (R28). -/
def registerWrite (s : State) (k : Nat) (offset : BitVec 8) (width : Nat) (v : Lane) :
    Host.Outcome State Fault Refusal :=
  if aligned64 offset width = false then .refused .notAligned64
  else match s.instances[k]? with
    | none => .fault .noSuchInstance
    | some I => .next { s with instances := s.instances.set k (I.writeSlot offset v) }

/-- A register read, without side effect on the block (20_memory.md R68). -/
def registerRead (s : State) (k : Nat) (offset : BitVec 8) (width : Nat) : Host.Outcome State Fault Refusal :=
  if aligned64 offset width = false then .refused .notAligned64
  else match s.instances[k]? with
    | none => .fault .noSuchInstance
    | some I => .next { s with readData := I.readSlot offset }

/-- The host stores a byte of HM (20_memory.md R60). -/
def hostStore (s : State) (addr : Nat) (v : Byte) : Host.Outcome State Fault Refusal :=
  if addr < s.hmSize then .next { s with hm := s.hm.write addr v } else .fault .noSuchMemory

/-- The host loads a byte of HM (20_memory.md R60). -/
def hostLoad (s : State) (addr : Nat) : Host.Outcome State Fault Refusal :=
  if addr < s.hmSize then .next { s with readData := (s.hm.read addr).setWidth 64 }
  else .fault .noSuchMemory

/-- Hardware reset: every instance takes its reset values and HM keeps its contents
(70_reset_and_hazards.md R400). -/
def hardwareReset (s : State) : Host.Outcome State Fault Refusal :=
  .next { s with instances := s.instances.map fun _ => Inst.zero }

/-- The instance and value of a command: a legal write to the CMD slot (R23, R28). -/
def commandOf (a : HostAccess) : Option (Nat × Lane) :=
  match a with
  | .regWrite k offset width v => if aligned64 offset width && decide (offset = cmdOffset) then some (k, v) else none
  | .regRead _ _ _ => none
  | .hmStore _ _ => none
  | .hmLoad _ => none
  | .hardwareReset => none

/-- An access that is no command. -/
def hostAccess (a : HostAccess) (s : State) : Host.Outcome State Fault Refusal :=
  match a with
  | .regWrite k offset width v => registerWrite s k offset width v
  | .regRead k offset width => registerRead s k offset width
  | .hmStore addr v => hostStore s addr v
  | .hmLoad addr => hostLoad s addr
  | .hardwareReset => hardwareReset s

/-- Between accesses the block is idle and holds its state (60_exceptions.md R387). -/
def idle (s : State) : Host.Outcome State Fault Refusal := .next s

/-- The write of a command value to CMD of instance `k`. -/
def cmdWrite (k : Nat) (v : Lane) : HostAccess := .regWrite k cmdOffset 8 v

/-- The state in which the host's next access is a write of `v` to CMD of instance 0. -/
def queueCommand (s : State) (v : Lane) : State := { s with program := cmdWrite 0 v :: s.program }

end Sys2Proof.Machine
end

