-- ==== Sys2Proof/Machine/Blake2b.lean ====
section
/-! DEFINITION. BLAKE2b (spec/47_blake2b.md R340 to R348). -/

namespace Sys2Proof.Machine

/-- `IVB[0..8)` (R340). -/
def blakeIV : Vector Lane 8 :=
  #v[0x6A09E667F3BCC908, 0xBB67AE8584CAA73B, 0x3C6EF372FE94F82B, 0xA54FF53A5F1D36F1,
     0x510E527FADE682D1, 0x9B05688C2B3E6C1F, 0x1F83D9ABFB41BD6B, 0x5BE0CD19137E2179]

/-- The 16-word local vector (R343). -/
abbrev BlakeV := Vector Lane 16

/-- The mixing function `G` (R344). -/
def blakeG (a b c d : Fin 16) (x y : Lane) (v : BlakeV) : BlakeV :=
  let v := v.set a.1 (v[a] + v[b] + x)
  let v := v.set d.1 (rotr (v[d] ^^^ v[a]) 32)
  let v := v.set c.1 (v[c] + v[d])
  let v := v.set b.1 (rotr (v[b] ^^^ v[c]) 24)
  let v := v.set a.1 (v[a] + v[b] + y)
  let v := v.set d.1 (rotr (v[d] ^^^ v[a]) 16)
  let v := v.set c.1 (v[c] + v[d])
  v.set b.1 (rotr (v[b] ^^^ v[c]) 63)

/-- `SIGMA` rows 0 to 9; rows 10 and 11 repeat rows 0 and 1 (R345). -/
def blakeSigma : List (List Nat) :=
  [[0, 1, 2, 3, 4, 5, 6, 7, 8, 9, 10, 11, 12, 13, 14, 15],
   [14, 10, 4, 8, 9, 15, 13, 6, 1, 12, 0, 2, 11, 7, 5, 3],
   [11, 8, 12, 0, 5, 2, 15, 13, 10, 14, 3, 6, 7, 1, 9, 4],
   [7, 9, 3, 1, 13, 12, 11, 14, 2, 6, 5, 10, 4, 0, 15, 8],
   [9, 0, 5, 7, 2, 4, 10, 15, 14, 1, 11, 12, 6, 8, 3, 13],
   [2, 12, 6, 10, 0, 11, 8, 3, 4, 13, 7, 5, 15, 14, 1, 9],
   [12, 5, 1, 15, 14, 13, 4, 10, 0, 7, 6, 3, 9, 2, 8, 11],
   [13, 11, 7, 14, 12, 1, 3, 9, 5, 0, 15, 4, 8, 6, 2, 10],
   [6, 15, 14, 9, 11, 3, 0, 8, 12, 2, 13, 7, 1, 4, 10, 5],
   [10, 2, 8, 4, 7, 6, 1, 5, 15, 11, 9, 14, 3, 12, 13, 0]]

/-- The message word `m[SIGMA[r][k]]` (R345). -/
def blakeWord (m : List Lane) (r k : Nat) : Lane := m.getD ((blakeSigma.getD (r % 10) []).getD k 0) 0

/-- Round `r`: four column and four diagonal calls of `G` (R343). -/
def blakeRound (m : List Lane) (r : Nat) (v : BlakeV) : BlakeV :=
  let v := blakeG 0 4 8 12 (blakeWord m r 0) (blakeWord m r 1) v
  let v := blakeG 1 5 9 13 (blakeWord m r 2) (blakeWord m r 3) v
  let v := blakeG 2 6 10 14 (blakeWord m r 4) (blakeWord m r 5) v
  let v := blakeG 3 7 11 15 (blakeWord m r 6) (blakeWord m r 7) v
  let v := blakeG 0 5 10 15 (blakeWord m r 8) (blakeWord m r 9) v
  let v := blakeG 1 6 11 12 (blakeWord m r 10) (blakeWord m r 11) v
  let v := blakeG 2 7 8 13 (blakeWord m r 12) (blakeWord m r 13) v
  blakeG 3 4 9 14 (blakeWord m r 14) (blakeWord m r 15) v

/-- The local vector before the rounds: the chaining values, the IV, the counter halves XORed into words 12
and 13, and on the last block the flag into word 14 (R343, 90_conflicts.md C2). -/
def blakeStart (h : Vector Lane 8) (t : Counter) (last : Bool) : BlakeV :=
  #v[h[0], h[1], h[2], h[3], h[4], h[5], h[6], h[7],
     blakeIV[0], blakeIV[1], blakeIV[2], blakeIV[3],
     blakeIV[4] ^^^ t.extractLsb' 0 64, blakeIV[5] ^^^ t.extractLsb' 64 64,
     (if last then blakeIV[6] ^^^ 0xFFFFFFFFFFFFFFFF else blakeIV[6]), blakeIV[7]]

/-- The sixteen little-endian 64-bit message words (R343). -/
def wordsLe64 (B : List Byte) : List Lane := (List.range 16).map fun j => le64 B (8 * j)

/-- The compression `F(h, B, t, last)` (R343). -/
def blakeF (h : Vector Lane 8) (B : List Byte) (t : Counter) (last : Bool) : Vector Lane 8 :=
  let m := wordsLe64 B
  let v := (List.range 12).foldl (fun v r => blakeRound m r v) (blakeStart h t last)
  Vector.ofFn fun i => h[i] ^^^ v[i.1] ^^^ v[i.1 + 8]

/-- Compress the pending block, counting its 128 bytes (R342, R346). -/
def blakeFlush (e : Engine) (last : Bool) : Engine :=
  { e with blakeT := e.blakeT + 128, blakeH := blakeF e.blakeH e.pb.toList (e.blakeT + 128) last }

/-- BLAKE2b's transformBlock: compress the block held back, if any, and hold this one back (R342). -/
def blakeTransformBlock (e : Engine) (B : List Byte) : Engine :=
  { (if e.pend then blakeFlush e false else e) with pb := padVec 128 B, pend := true }

/-- The parameter word `P0 = 0x01010000 ^ (KEYLEN << 8) ^ DLEN` (R340). -/
def blakeParam (c : Cfg) : Lane := 0x01010000 ^^^ (c.keyLen.setWidth 64 <<< 8) ^^^ c.dlen

/-- The key block: the key zero-padded to 128 bytes (R341). -/
def blakeKeyBlock (c : Cfg) : List Byte :=
  c.key.toList.take c.keyLen.toNat ++ zeros (128 - c.keyLen.toNat)

/-- The chaining values, counter and pending block of a fresh BLAKE2b engine (R341). -/
def blakeInit (c : Cfg) (e : Engine) : Engine :=
  { e with blakeH := blakeIV.set 0 (blakeIV[0] ^^^ blakeParam c), blakeT := 0, pend := false,
           pb := Vector.replicate 128 0 }

/-- BLAKE2b's resetState; a key is absorbed as the first block (R341). -/
def blakeResetState (c : Cfg) (e : Engine) : Engine :=
  if 0 < c.keyLen.toNat then blakeTransformBlock (blakeInit c e) (blakeKeyBlock c) else blakeInit c e

/-- The last compression, of a partial block `P` zero-padded to 128 bytes, counting only its real bytes
(R346). -/
def blakeLast (e : Engine) (P : List Byte) : Engine :=
  { e with
    blakeT := e.blakeT + BitVec.ofNat 128 P.length,
    blakeH := blakeF e.blakeH (P ++ zeros (128 - P.length)) (e.blakeT + BitVec.ofNat 128 P.length) true }

/-- The engine after BLAKE2b's finalization with the partial block `P` (R346). -/
def blakeFinalState (e : Engine) (P : List Byte) : Engine :=
  if P.length = 0 ∧ e.pend = true then blakeFlush e true
  else blakeLast (if e.pend then blakeFlush e false else e) P

/-- `Serialize(h)` (R347). -/
def blakeSerialize (h : Vector Lane 8) : List Byte := h.toList.flatMap putLe64

/-- BLAKE2b's transformFinal (R346, R347). -/
def blakeFinal (c : Cfg) (e : Engine) (P : List Byte) : List Byte :=
  (blakeSerialize (blakeFinalState e P).blakeH).take c.dlen.toNat

end Sys2Proof.Machine
end

