-- ==== Sys2Proof/Machine/Md4.lean ====
section
/-! DEFINITION. MD4 (spec/42_md2_md4_md5.md R196 to R198), and the four-register file it shares with MD5. -/

namespace Sys2Proof.Machine

/-- Four working registers of 32 bits. -/
structure Reg4 where
  a : Word
  b : Word
  c : Word
  d : Word
  deriving DecidableEq, Repr

/-- The sixteen little-endian message words (41_md_framework.md R172). -/
def wordsLe32 (B : List Byte) : List Word := (List.range 16).map fun j => le32 B (4 * j)

/-- `F4` (R196). -/
def md4F (x y z : Word) : Word := (x &&& y) ||| (~~~x &&& z)

/-- `G4` (R196). -/
def md4G (x y z : Word) : Word := (x &&& y) ||| (x &&& z) ||| (y &&& z)

/-- `H4` (R196). -/
def md4H (x y z : Word) : Word := x ^^^ y ^^^ z

/-- The function of round `r` (R197). -/
def md4Fun (r : Nat) : Word → Word → Word → Word :=
  match r with
  | 0 => md4F
  | 1 => md4G
  | _ => md4H

/-- `K4[r]` (R197). -/
def md4K (r : Nat) : Word := ([0x00000000, 0x5A827999, 0x6ED9EBA1] : List Word).getD r 0

/-- `ORD4[r][i]` (R197). -/
def md4Ord (r i : Nat) : Nat :=
  (([[0, 1, 2, 3, 4, 5, 6, 7, 8, 9, 10, 11, 12, 13, 14, 15],
     [0, 4, 8, 12, 1, 5, 9, 13, 2, 6, 10, 14, 3, 7, 11, 15],
     [0, 8, 4, 12, 2, 10, 6, 14, 1, 9, 5, 13, 3, 11, 7, 15]] : List (List Nat)).getD r []).getD i 0

/-- `SH4[r][i mod 4]` (R197). -/
def md4Shift (r i : Nat) : Nat :=
  (([[3, 7, 11, 19], [3, 5, 9, 13], [3, 9, 11, 15]] : List (List Nat)).getD r []).getD (i % 4) 0

/-- Step `i` of round `r` on the message words `X` (R198). -/
def md4Step (X : List Word) (r i : Nat) (s : Reg4) : Reg4 :=
  { a := s.d,
    b := rotl (s.a + md4Fun r s.b s.c s.d + X.getD (md4Ord r i) 0 + md4K r) (md4Shift r i),
    c := s.b,
    d := s.c }

/-- The feed-forward of a four-register compression. -/
def Reg4.add (x y : Reg4) : Reg4 := { a := x.a + y.a, b := x.b + y.b, c := x.c + y.c, d := x.d + y.d }

/-- `MD4Compress(H, B)` (R198). -/
def md4Compress (H : Reg4) (B : List Byte) : Reg4 :=
  H.add ((List.range 48).foldl (fun s j => md4Step (wordsLe32 B) (j / 16) (j % 16) s) H)

end Sys2Proof.Machine
end

