-- ==== Sys2Proof/Machine/Md5.lean ====
section
/-! DEFINITION. MD5 (spec/42_md2_md4_md5.md R199 to R203). -/

namespace Sys2Proof.Machine

/-- `F5` (R199). -/
def md5F (x y z : Word) : Word := (x &&& y) ||| (~~~x &&& z)

/-- `G5` (R199). -/
def md5G (x y z : Word) : Word := (x &&& z) ||| (y &&& ~~~z)

/-- `H5` (R199). -/
def md5H (x y z : Word) : Word := x ^^^ y ^^^ z

/-- `I5` (R199). -/
def md5I (x y z : Word) : Word := y ^^^ (x ||| ~~~z)

/-- The function of round `r` (R199). -/
def md5Fun (r : Nat) : Word → Word → Word → Word :=
  match r with
  | 0 => md5F
  | 1 => md5G
  | 2 => md5H
  | _ => md5I

/-- The table `T` (R200). -/
def md5Table : List Word :=
  [0xD76AA478, 0xE8C7B756, 0x242070DB, 0xC1BDCEEE, 0xF57C0FAF, 0x4787C62A, 0xA8304613, 0xFD469501] ++
  [0x698098D8, 0x8B44F7AF, 0xFFFF5BB1, 0x895CD7BE, 0x6B901122, 0xFD987193, 0xA679438E, 0x49B40821] ++
  [0xF61E2562, 0xC040B340, 0x265E5A51, 0xE9B6C7AA, 0xD62F105D, 0x02441453, 0xD8A1E681, 0xE7D3FBC8] ++
  [0x21E1CDE6, 0xC33707D6, 0xF4D50D87, 0x455A14ED, 0xA9E3E905, 0xFCEFA3F8, 0x676F02D9, 0x8D2A4C8A] ++
  [0xFFFA3942, 0x8771F681, 0x6D9D6122, 0xFDE5380C, 0xA4BEEA44, 0x4BDECFA9, 0xF6BB4B60, 0xBEBFBC70] ++
  [0x289B7EC6, 0xEAA127FA, 0xD4EF3085, 0x04881D05, 0xD9D4D039, 0xE6DB99E5, 0x1FA27CF8, 0xC4AC5665] ++
  [0xF4292244, 0x432AFF97, 0xAB9423A7, 0xFC93A039, 0x655B59C3, 0x8F0CCC92, 0xFFEFF47D, 0x85845DD1] ++
  [0x6FA87E4F, 0xFE2CE6E0, 0xA3014314, 0x4E0811A1, 0xF7537E82, 0xBD3AF235, 0x2AD7D2BB, 0xEB86D391]

/-- `SH5[r][i mod 4]` (R201). -/
def md5Shift (r i : Nat) : Nat :=
  (([[7, 12, 17, 22], [5, 9, 14, 20], [4, 11, 16, 23], [6, 10, 15, 21]] : List (List Nat)).getD r []).getD
    (i % 4) 0

/-- The message word index `g(i)` (R202). -/
def md5Index (i : Nat) : Nat :=
  match i / 16 with
  | 0 => i
  | 1 => (5 * i + 1) % 16
  | 2 => (3 * i + 5) % 16
  | _ => 7 * i % 16

/-- Step `i` on the message words `X` (R203). -/
def md5Step (X : List Word) (i : Nat) (s : Reg4) : Reg4 :=
  { a := s.d,
    b := s.b + rotl (s.a + md5Fun (i / 16) s.b s.c s.d + X.getD (md5Index i) 0 + md5Table.getD i 0)
      (md5Shift (i / 16) i),
    c := s.b,
    d := s.c }

/-- `MD5Compress(H, B)` (R203). -/
def md5Compress (H : Reg4) (B : List Byte) : Reg4 :=
  H.add ((List.range 64).foldl (fun s i => md5Step (wordsLe32 B) i s) H)

end Sys2Proof.Machine
end

