-- ==== Sys2Proof/Machine/Sha1.lean ====
section
/-! DEFINITION. SHA-1 (spec/43_sha1_sha2.md R220 to R222), with the five-register file and the message
schedule it shares with other compressions. -/

namespace Sys2Proof.Machine

/-- Five working registers of 32 bits. -/
structure Reg5 where
  a : Word
  b : Word
  c : Word
  d : Word
  e : Word
  deriving DecidableEq, Repr

/-- The feed-forward of a five-register compression. -/
def Reg5.add (x y : Reg5) : Reg5 :=
  { a := x.a + y.a, b := x.b + y.b, c := x.c + y.c, d := x.d + y.d, e := x.e + y.e }

/-- The sixteen big-endian 32-bit message words (41_md_framework.md R172). -/
def wordsBe32 (B : List Byte) : List Word := (List.range 16).map fun j => be32 B (4 * j)

/-- A message schedule: the words `W` followed by `k` more, each given by the recurrence `f` on the words
before it and its index. -/
def extendSchedule {N : Nat} (f : List (BitVec N) → Nat → BitVec N) : (k : Nat) → (W : List (BitVec N)) →
    List (BitVec N)
  | 0, W => W
  | k + 1, W => extendSchedule f k (W ++ [f W W.length])

/-- `f_t(b, c, d)` (R220). -/
def sha1Fun (t : Nat) (b c d : Word) : Word :=
  match t / 20 with
  | 0 => (b &&& c) ^^^ (~~~b &&& d)
  | 1 => b ^^^ c ^^^ d
  | 2 => (b &&& c) ^^^ (b &&& d) ^^^ (c &&& d)
  | _ => b ^^^ c ^^^ d

/-- `K_t` (R220). -/
def sha1K (t : Nat) : Word := ([0x5A827999, 0x6ED9EBA1, 0x8F1BBCDC, 0xCA62C1D6] : List Word).getD (t / 20) 0

/-- The recurrence of the schedule (R221). -/
def sha1Recurrence (W : List Word) (t : Nat) : Word :=
  rotl (W.getD (t - 3) 0 ^^^ W.getD (t - 8) 0 ^^^ W.getD (t - 14) 0 ^^^ W.getD (t - 16) 0) 1

/-- The schedule `W[0..80)` (R221). -/
def sha1Schedule (B : List Byte) : List Word := extendSchedule sha1Recurrence 64 (wordsBe32 B)

/-- Step `t` on the schedule `W` (R222). -/
def sha1Step (W : List Word) (t : Nat) (s : Reg5) : Reg5 :=
  { a := rotl s.a 5 + sha1Fun t s.b s.c s.d + s.e + sha1K t + W.getD t 0,
    b := s.a,
    c := rotl s.b 30,
    d := s.c,
    e := s.d }

/-- `SHA1Compress(H, B)` (R222). -/
def sha1Compress (H : Reg5) (B : List Byte) : Reg5 :=
  let W := sha1Schedule B
  H.add ((List.range 80).foldl (fun s t => sha1Step W t s) H)

end Sys2Proof.Machine
end

