-- ==== Sys2Proof/Machine/Ripemd.lean ====
section
/-! DEFINITION. RIPEMD-128 and RIPEMD-160 (spec/44_ripemd.md R260 to R265). -/

namespace Sys2Proof.Machine

/-- The boolean functions `f0` to `f4` (R260). -/
def rmdFun (j : Nat) (x y z : Word) : Word :=
  match j with
  | 0 => x ^^^ y ^^^ z
  | 1 => (x &&& y) ||| (~~~x &&& z)
  | 2 => (x ||| ~~~y) ^^^ z
  | 3 => (x &&& z) ||| (y &&& ~~~z)
  | _ => x ^^^ (y ||| ~~~z)

/-- Entry `i` of row `r` of a table of rows. -/
def tableAt (t : List (List Nat)) (r i : Nat) : Nat := (t.getD r []).getD i 0

/-- `RL[ρ][i]` (R261). -/
def rmdRL : List (List Nat) :=
    [[0, 1, 2, 3, 4, 5, 6, 7, 8, 9, 10, 11, 12, 13, 14, 15],
     [7, 4, 13, 1, 10, 6, 15, 3, 12, 0, 9, 5, 2, 14, 11, 8],
     [3, 10, 14, 4, 9, 15, 8, 1, 2, 7, 0, 6, 13, 11, 5, 12],
     [1, 9, 11, 10, 0, 8, 12, 4, 13, 3, 7, 15, 14, 5, 6, 2],
     [4, 0, 5, 9, 7, 12, 2, 10, 14, 1, 3, 8, 11, 6, 15, 13]]

/-- `RR[ρ][i]` (R261). -/
def rmdRR : List (List Nat) :=
    [[5, 14, 7, 0, 9, 2, 11, 4, 13, 6, 15, 8, 1, 10, 3, 12],
     [6, 11, 3, 7, 0, 13, 5, 10, 14, 15, 8, 12, 4, 9, 1, 2],
     [15, 5, 1, 3, 7, 14, 6, 9, 11, 8, 12, 2, 10, 0, 4, 13],
     [8, 6, 4, 1, 3, 11, 15, 0, 5, 12, 2, 13, 9, 7, 10, 14],
     [12, 15, 10, 4, 1, 5, 8, 7, 6, 2, 13, 14, 0, 3, 9, 11]]

/-- `SL[ρ][i]` (R262). -/
def rmdSL : List (List Nat) :=
    [[11, 14, 15, 12, 5, 8, 7, 9, 11, 13, 14, 15, 6, 7, 9, 8],
     [7, 6, 8, 13, 11, 9, 7, 15, 7, 12, 15, 9, 11, 7, 13, 12],
     [11, 13, 6, 7, 14, 9, 13, 15, 14, 8, 13, 6, 5, 12, 7, 5],
     [11, 12, 14, 15, 14, 15, 9, 8, 9, 14, 5, 6, 8, 6, 5, 12],
     [9, 15, 5, 11, 6, 8, 13, 12, 5, 12, 13, 14, 11, 8, 5, 6]]

/-- `SR[ρ][i]` (R262). -/
def rmdSR : List (List Nat) :=
    [[8, 9, 9, 11, 13, 15, 15, 5, 7, 7, 8, 11, 14, 14, 12, 6],
     [9, 13, 15, 7, 12, 8, 9, 11, 7, 7, 12, 7, 6, 15, 13, 11],
     [9, 7, 15, 11, 8, 6, 6, 14, 12, 13, 5, 14, 13, 13, 7, 5],
     [15, 5, 8, 11, 14, 14, 6, 14, 6, 9, 12, 9, 12, 5, 15, 8],
     [8, 5, 12, 9, 12, 5, 14, 6, 8, 13, 6, 5, 15, 13, 11, 11]]

/-- `KL[ρ]` (R262). -/
def rmdKL : List Word := [0x00000000, 0x5A827999, 0x6ED9EBA1, 0x8F1BBCDC, 0xA953FD4E]

/-- `KR160[ρ]` (R262). -/
def rmdKR160 : List Word := [0x50A28BE6, 0x5C4DD124, 0x6D703EF3, 0x7A6D76E9, 0x00000000]

/-- `KR128[ρ]` (R262). -/
def rmdKR128 : List Word := [0x50A28BE6, 0x5C4DD124, 0x6D703EF3, 0x00000000]

/-- One step of a RIPEMD-160 line: boolean function `j`, message word `x`, constant `k`, rotation `r`
(R263). -/
def rmd160Line (j : Nat) (x k : Word) (r : Nat) (v : Reg5) : Reg5 :=
  { a := v.e,
    b := rotl (v.a + rmdFun j v.b v.c v.d + x + k) r + v.e,
    c := v.b,
    d := rotl v.c 10,
    e := v.d }

/-- Step `s` of the left line (R263). -/
def rmd160Left (X : List Word) (s : Nat) (v : Reg5) : Reg5 :=
  rmd160Line (s / 16) (X.getD (tableAt rmdRL (s / 16) (s % 16)) 0) (rmdKL.getD (s / 16) 0)
    (tableAt rmdSL (s / 16) (s % 16)) v

/-- Step `s` of the right line (R263). -/
def rmd160Right (X : List Word) (s : Nat) (v : Reg5) : Reg5 :=
  rmd160Line (4 - s / 16) (X.getD (tableAt rmdRR (s / 16) (s % 16)) 0) (rmdKR160.getD (s / 16) 0)
    (tableAt rmdSR (s / 16) (s % 16)) v

/-- The final feed-forward, where the two lines are combined (R263). -/
def rmd160Combine (H l r : Reg5) : Reg5 :=
  { a := H.b + l.c + r.d, b := H.c + l.d + r.e, c := H.d + l.e + r.a, d := H.e + l.a + r.b,
    e := H.a + l.b + r.c }

/-- `RMD160Compress(H, B)`: the lines run apart and meet in the feed-forward only (R263, R265). -/
def rmd160Compress (H : Reg5) (B : List Byte) : Reg5 :=
  let X := wordsLe32 B
  rmd160Combine H ((List.range 80).foldl (fun v s => rmd160Left X s v) H)
    ((List.range 80).foldl (fun v s => rmd160Right X s v) H)

/-- One step of a RIPEMD-128 line (R264). -/
def rmd128Line (j : Nat) (x k : Word) (r : Nat) (v : Reg4) : Reg4 :=
  { a := v.d,
    b := rotl (v.a + rmdFun j v.b v.c v.d + x + k) r,
    c := v.b,
    d := v.c }

/-- Step `s` of the left line (R264). -/
def rmd128Left (X : List Word) (s : Nat) (v : Reg4) : Reg4 :=
  rmd128Line (s / 16) (X.getD (tableAt rmdRL (s / 16) (s % 16)) 0) (rmdKL.getD (s / 16) 0)
    (tableAt rmdSL (s / 16) (s % 16)) v

/-- Step `s` of the right line (R264). -/
def rmd128Right (X : List Word) (s : Nat) (v : Reg4) : Reg4 :=
  rmd128Line (3 - s / 16) (X.getD (tableAt rmdRR (s / 16) (s % 16)) 0) (rmdKR128.getD (s / 16) 0)
    (tableAt rmdSR (s / 16) (s % 16)) v

/-- The final feed-forward of RIPEMD-128 (R264). -/
def rmd128Combine (H l r : Reg4) : Reg4 :=
  { a := H.b + l.c + r.d, b := H.c + l.d + r.a, c := H.d + l.a + r.b, d := H.a + l.b + r.c }

/-- `RMD128Compress(H, B)` (R264). -/
def rmd128Compress (H : Reg4) (B : List Byte) : Reg4 :=
  let X := wordsLe32 B
  rmd128Combine H ((List.range 64).foldl (fun v s => rmd128Left X s v) H)
    ((List.range 64).foldl (fun v s => rmd128Right X s v) H)

end Sys2Proof.Machine
end

