-- ==== Sys2Proof/Machine/Sha2.lean ====
section
/-! DEFINITION. The SHA-2 families (spec/43_sha1_sha2.md R223 to R232). -/

namespace Sys2Proof.Machine

/-- Eight working registers. -/
structure Reg8 (N : Nat) where
  a : BitVec N
  b : BitVec N
  c : BitVec N
  d : BitVec N
  e : BitVec N
  f : BitVec N
  g : BitVec N
  h : BitVec N
  deriving DecidableEq, Repr

/-- The feed-forward of an eight-register compression. -/
def Reg8.add {N : Nat} (x y : Reg8 N) : Reg8 N :=
  { a := x.a + y.a, b := x.b + y.b, c := x.c + y.c, d := x.d + y.d,
    e := x.e + y.e, f := x.f + y.f, g := x.g + y.g, h := x.h + y.h }

/-- The sixteen big-endian 64-bit message words (41_md_framework.md R172). -/
def wordsBe64 (B : List Byte) : List Lane := (List.range 16).map fun j => be64 B (8 * j)

/-- `Ch` (R223, R228). -/
def sha2Ch {N : Nat} (e f g : BitVec N) : BitVec N := (e &&& f) ^^^ (~~~e &&& g)

/-- `Maj` (R223, R228). -/
def sha2Maj {N : Nat} (a b c : BitVec N) : BitVec N := (a &&& b) ^^^ (a &&& c) ^^^ (b &&& c)

/-- `T1` of a step, given `Σ1`, the round constant and the schedule word (R227, R232). -/
def sha2T1 {N : Nat} (S1 : BitVec N → BitVec N) (k w : BitVec N) (s : Reg8 N) : BitVec N :=
  s.h + S1 s.e + sha2Ch s.e s.f s.g + k + w

/-- `T2` of a step, given `Σ0` (R227, R232). -/
def sha2T2 {N : Nat} (S0 : BitVec N → BitVec N) (s : Reg8 N) : BitVec N := S0 s.a + sha2Maj s.a s.b s.c

/-- One step of a SHA-2 compression (R227, R232). -/
def sha2Step {N : Nat} (S0 S1 : BitVec N → BitVec N) (k w : BitVec N) (s : Reg8 N) : Reg8 N :=
  { a := sha2T1 S1 k w s + sha2T2 S0 s, b := s.a, c := s.b, d := s.c,
    e := s.d + sha2T1 S1 k w s, f := s.e, g := s.f, h := s.g }

/-- The recurrence of a SHA-2 schedule, given its σ0 and σ1 (R225, R230). -/
def sha2Recurrence {N : Nat} (s0 s1 : BitVec N → BitVec N) (W : List (BitVec N)) (t : Nat) : BitVec N :=
  s1 (W.getD (t - 2) 0) + W.getD (t - 7) 0 + s0 (W.getD (t - 15) 0) + W.getD (t - 16) 0

/-! ### SHA-2-256 -/

/-- `Σ0` (R223). -/
def sha256BigSigma0 (a : Word) : Word := rotr a 2 ^^^ rotr a 13 ^^^ rotr a 22

/-- `Σ1` (R223). -/
def sha256BigSigma1 (e : Word) : Word := rotr e 6 ^^^ rotr e 11 ^^^ rotr e 25

/-- `σ0` (R223). -/
def sha256Sigma0 (x : Word) : Word := rotr x 7 ^^^ rotr x 18 ^^^ (x >>> 3)

/-- `σ1` (R223). -/
def sha256Sigma1 (x : Word) : Word := rotr x 17 ^^^ rotr x 19 ^^^ (x >>> 10)

/-- `K256` (R224). -/
def sha256K : List Word :=
  [0x428A2F98, 0x71374491, 0xB5C0FBCF, 0xE9B5DBA5, 0x3956C25B, 0x59F111F1, 0x923F82A4, 0xAB1C5ED5] ++
  [0xD807AA98, 0x12835B01, 0x243185BE, 0x550C7DC3, 0x72BE5D74, 0x80DEB1FE, 0x9BDC06A7, 0xC19BF174] ++
  [0xE49B69C1, 0xEFBE4786, 0x0FC19DC6, 0x240CA1CC, 0x2DE92C6F, 0x4A7484AA, 0x5CB0A9DC, 0x76F988DA] ++
  [0x983E5152, 0xA831C66D, 0xB00327C8, 0xBF597FC7, 0xC6E00BF3, 0xD5A79147, 0x06CA6351, 0x14292967] ++
  [0x27B70A85, 0x2E1B2138, 0x4D2C6DFC, 0x53380D13, 0x650A7354, 0x766A0ABB, 0x81C2C92E, 0x92722C85] ++
  [0xA2BFE8A1, 0xA81A664B, 0xC24B8B70, 0xC76C51A3, 0xD192E819, 0xD6990624, 0xF40E3585, 0x106AA070] ++
  [0x19A4C116, 0x1E376C08, 0x2748774C, 0x34B0BCB5, 0x391C0CB3, 0x4ED8AA4A, 0x5B9CCA4F, 0x682E6FF3] ++
  [0x748F82EE, 0x78A5636F, 0x84C87814, 0x8CC70208, 0x90BEFFFA, 0xA4506CEB, 0xBEF9A3F7, 0xC67178F2]

/-- The schedule `W[0..64)` (R225). -/
def sha256Schedule (B : List Byte) : List Word :=
  extendSchedule (sha2Recurrence sha256Sigma0 sha256Sigma1) 48 (wordsBe32 B)

/-- Step `t` on the schedule `W` (R227). -/
def sha256Step (W : List Word) (t : Nat) (s : Reg8 32) : Reg8 32 :=
  sha2Step sha256BigSigma0 sha256BigSigma1 (sha256K.getD t 0) (W.getD t 0) s

/-- `SHA256Compress(H, B)` (R227). -/
def sha256Compress (H : Reg8 32) (B : List Byte) : Reg8 32 :=
  let W := sha256Schedule B
  H.add ((List.range 64).foldl (fun s t => sha256Step W t s) H)

/-! ### SHA-2-512 -/

/-- `Σ0` (R228). -/
def sha512BigSigma0 (a : Lane) : Lane := rotr a 28 ^^^ rotr a 34 ^^^ rotr a 39

/-- `Σ1` (R228). -/
def sha512BigSigma1 (e : Lane) : Lane := rotr e 14 ^^^ rotr e 18 ^^^ rotr e 41

/-- `σ0` (R228). -/
def sha512Sigma0 (x : Lane) : Lane := rotr x 1 ^^^ rotr x 8 ^^^ (x >>> 7)

/-- `σ1` (R228). -/
def sha512Sigma1 (x : Lane) : Lane := rotr x 19 ^^^ rotr x 61 ^^^ (x >>> 6)

/-- `K512` (R229). -/
def sha512K : List Lane :=
  [0x428A2F98D728AE22, 0x7137449123EF65CD, 0xB5C0FBCFEC4D3B2F, 0xE9B5DBA58189DBBC] ++
  [0x3956C25BF348B538, 0x59F111F1B605D019, 0x923F82A4AF194F9B, 0xAB1C5ED5DA6D8118] ++
  [0xD807AA98A3030242, 0x12835B0145706FBE, 0x243185BE4EE4B28C, 0x550C7DC3D5FFB4E2] ++
  [0x72BE5D74F27B896F, 0x80DEB1FE3B1696B1, 0x9BDC06A725C71235, 0xC19BF174CF692694] ++
  [0xE49B69C19EF14AD2, 0xEFBE4786384F25E3, 0x0FC19DC68B8CD5B5, 0x240CA1CC77AC9C65] ++
  [0x2DE92C6F592B0275, 0x4A7484AA6EA6E483, 0x5CB0A9DCBD41FBD4, 0x76F988DA831153B5] ++
  [0x983E5152EE66DFAB, 0xA831C66D2DB43210, 0xB00327C898FB213F, 0xBF597FC7BEEF0EE4] ++
  [0xC6E00BF33DA88FC2, 0xD5A79147930AA725, 0x06CA6351E003826F, 0x142929670A0E6E70] ++
  [0x27B70A8546D22FFC, 0x2E1B21385C26C926, 0x4D2C6DFC5AC42AED, 0x53380D139D95B3DF] ++
  [0x650A73548BAF63DE, 0x766A0ABB3C77B2A8, 0x81C2C92E47EDAEE6, 0x92722C851482353B] ++
  [0xA2BFE8A14CF10364, 0xA81A664BBC423001, 0xC24B8B70D0F89791, 0xC76C51A30654BE30] ++
  [0xD192E819D6EF5218, 0xD69906245565A910, 0xF40E35855771202A, 0x106AA07032BBD1B8] ++
  [0x19A4C116B8D2D0C8, 0x1E376C085141AB53, 0x2748774CDF8EEB99, 0x34B0BCB5E19B48A8] ++
  [0x391C0CB3C5C95A63, 0x4ED8AA4AE3418ACB, 0x5B9CCA4F7763E373, 0x682E6FF3D6B2B8A3] ++
  [0x748F82EE5DEFB2FC, 0x78A5636F43172F60, 0x84C87814A1F0AB72, 0x8CC702081A6439EC] ++
  [0x90BEFFFA23631E28, 0xA4506CEBDE82BDE9, 0xBEF9A3F7B2C67915, 0xC67178F2E372532B] ++
  [0xCA273ECEEA26619C, 0xD186B8C721C0C207, 0xEADA7DD6CDE0EB1E, 0xF57D4F7FEE6ED178] ++
  [0x06F067AA72176FBA, 0x0A637DC5A2C898A6, 0x113F9804BEF90DAE, 0x1B710B35131C471B] ++
  [0x28DB77F523047D84, 0x32CAAB7B40C72493, 0x3C9EBE0A15C9BEBC, 0x431D67C49C100D4C] ++
  [0x4CC5D4BECB3E42B6, 0x597F299CFC657E2A, 0x5FCB6FAB3AD6FAEC, 0x6C44198C4A475817]

/-- The schedule `W[0..80)` (R230). -/
def sha512Schedule (B : List Byte) : List Lane :=
  extendSchedule (sha2Recurrence sha512Sigma0 sha512Sigma1) 64 (wordsBe64 B)

/-- Step `t` on the schedule `W` (R232). -/
def sha512Step (W : List Lane) (t : Nat) (s : Reg8 64) : Reg8 64 :=
  sha2Step sha512BigSigma0 sha512BigSigma1 (sha512K.getD t 0) (W.getD t 0) s

/-- `SHA512Compress(H, B)` (R232). -/
def sha512Compress (H : Reg8 64) (B : List Byte) : Reg8 64 :=
  let W := sha512Schedule B
  H.add ((List.range 80).foldl (fun s t => sha512Step W t s) H)

end Sys2Proof.Machine
end

