-- ==== Sys2Proof/Machine/MdFramework.lean ====
section
/-! DEFINITION. What the length-padded Merkle–Damgård algorithms share (spec/41_md_framework.md R170 to R178):
the registers, the padding, the serialization and the initial values. MD2 is not one of them. -/

namespace Sys2Proof.Machine

/-! ### The register file (10_state.md R32) -/

/-- Bits 31:0 of a register, the part a 32-bit algorithm uses (10_state.md R32). -/
def lowWord (v : Lane) : Word := v.setWidth 32

/-- A 32-bit word in a register, bits 63:32 being 0 (10_state.md R32). -/
def wideWord (w : Word) : Lane := w.setWidth 64

/-- H[0..4) of a 32-bit algorithm. -/
def readReg4 (H : Vector Lane 8) : Reg4 :=
  { a := lowWord H[0], b := lowWord H[1], c := lowWord H[2], d := lowWord H[3] }

/-- H[0..4) replaced, the words above unchanged (R171). -/
def writeReg4 (r : Reg4) (H : Vector Lane 8) : Vector Lane 8 :=
  #v[wideWord r.a, wideWord r.b, wideWord r.c, wideWord r.d, H[4], H[5], H[6], H[7]]

/-- H[0..5) of a 32-bit algorithm. -/
def readReg5 (H : Vector Lane 8) : Reg5 :=
  { a := lowWord H[0], b := lowWord H[1], c := lowWord H[2], d := lowWord H[3], e := lowWord H[4] }

/-- H[0..5) replaced, the words above unchanged (R171). -/
def writeReg5 (r : Reg5) (H : Vector Lane 8) : Vector Lane 8 :=
  #v[wideWord r.a, wideWord r.b, wideWord r.c, wideWord r.d, wideWord r.e, H[5], H[6], H[7]]

/-- H[0..8) of SHA-2-256. -/
def readReg8 (H : Vector Lane 8) : Reg8 32 :=
  { a := lowWord H[0], b := lowWord H[1], c := lowWord H[2], d := lowWord H[3],
    e := lowWord H[4], f := lowWord H[5], g := lowWord H[6], h := lowWord H[7] }

/-- H[0..8) of SHA-2-256 replaced. -/
def writeReg8 (r : Reg8 32) : Vector Lane 8 :=
  #v[wideWord r.a, wideWord r.b, wideWord r.c, wideWord r.d, wideWord r.e, wideWord r.f, wideWord r.g,
     wideWord r.h]

/-- H[0..8) of SHA-2-512. -/
def readReg8Wide (H : Vector Lane 8) : Reg8 64 :=
  { a := H[0], b := H[1], c := H[2], d := H[3], e := H[4], f := H[5], g := H[6], h := H[7] }

/-- H[0..8) of SHA-2-512 replaced. -/
def writeReg8Wide (r : Reg8 64) : Vector Lane 8 := #v[r.a, r.b, r.c, r.d, r.e, r.f, r.g, r.h]

/-! ### Blocks -/

/-- `ST.H[0..n) <- Compress(ST.H[0..n), B)` (R170, R171). The other families have no such function and the
hooks do not call it for them. -/
def mdCompress (a : Alg) (H : Vector Lane 8) (B : List Byte) : Vector Lane 8 :=
  match a with
  | .md4 => writeReg4 (md4Compress (readReg4 H) B) H
  | .md5 => writeReg4 (md5Compress (readReg4 H) B) H
  | .sha1 => writeReg5 (sha1Compress (readReg5 H) B) H
  | .sha2_256 => writeReg8 (sha256Compress (readReg8 H) B)
  | .sha2_512 => writeReg8Wide (sha512Compress (readReg8Wide H) B)
  | .ripemd128 => writeReg4 (rmd128Compress (readReg4 H) B) H
  | .ripemd160 => writeReg5 (rmd160Compress (readReg5 H) B) H
  | .md2 | .sha3 | .shake128 | .shake256 | .blake2b => H

/-- transformBlock of the length-padded algorithms (R171). -/
def mdTransformBlock (a : Alg) (e : Engine) (B : List Byte) : Engine :=
  { e with mdH := mdCompress a e.mdH B }

/-! ### Padding and finalization -/

/-- `LF`, the length of the length field in bytes (R170). -/
def mdLengthField (a : Alg) : Nat :=
  match a with
  | .sha2_512 => 16
  | _ => 8

/-- The byte order of words, length field and output: big-endian for SHA-1 and SHA-2 (R170). -/
def mdBigEndian (a : Alg) : Bool :=
  match a with
  | .sha1 | .sha2_256 | .sha2_512 => true
  | _ => false

/-- The length field: LEN mod 2^(8·LF) in the algorithm's order (R173). -/
def mdLengthBytes (a : Alg) (len : Counter) : List Byte :=
  if mdBigEndian a then putBe (mdLengthField a) (len.toNat % 2 ^ (8 * mdLengthField a))
  else putLe (mdLengthField a) (len.toNat % 2 ^ (8 * mdLengthField a))

/-- A block with its last LF bytes replaced by the length field (R173). -/
def mdWithLength (a : Alg) (blk : Nat) (len : Counter) (B : List Byte) : List Byte :=
  B.take (blk - mdLengthField a) ++ mdLengthBytes a len

/-- The partial block, 0x80, and zeros to the end of the block (R173). -/
def mdFirstPad (blk : Nat) (P : List Byte) : List Byte := P ++ [0x80] ++ zeros (blk - P.length - 1)

/-- The one or two blocks that finalization compresses (R173, 90_conflicts.md C5). -/
def mdFinalBlocks (a : Alg) (blk : Nat) (len : Counter) (P : List Byte) : List (List Byte) :=
  if blk - P.length - 1 < mdLengthField a then
    [mdFirstPad blk P, mdWithLength a blk len (zeros blk)]
  else [mdWithLength a blk len (mdFirstPad blk P)]

/-- `Serialize(H)` (R174). -/
def mdSerialize (a : Alg) (H : Vector Lane 8) : List Byte :=
  match a with
  | .md4 | .md5 | .ripemd128 => (H.toList.take 4).flatMap fun v => putLe32 (lowWord v)
  | .ripemd160 => (H.toList.take 5).flatMap fun v => putLe32 (lowWord v)
  | .sha1 => (H.toList.take 5).flatMap fun v => putBe32 (lowWord v)
  | .sha2_256 => H.toList.flatMap fun v => putBe32 (lowWord v)
  | .sha2_512 => H.toList.flatMap putBe64
  | .md2 | .sha3 | .shake128 | .shake256 | .blake2b => []

/-- transformFinal of the length-padded algorithms (R173, R174). -/
def mdFinal (a : Alg) (c : Cfg) (e : Engine) (P : List Byte) : List Byte :=
  let e' := (mdFinalBlocks a c.blk.toNat e.len P).foldl (mdTransformBlock a) e
  (mdSerialize a e'.mdH).take c.dlen.toNat

/-! ### Initial values -/

/-- The IV of an algorithm and digest size, words above n being 0 (R175). A pair with no row of R175 leaves H
at 0; no configuration of 40_buffering_engine.md R122 has one (notes/assumptions/3.md). -/
def mdIV (a : Alg) (dsz : Nat) : Vector Lane 8 :=
  match a with
  | .md4 | .md5 | .ripemd128 =>
    #v[0x67452301, 0xEFCDAB89, 0x98BADCFE, 0x10325476,
        0, 0, 0, 0]
  | .sha1 | .ripemd160 =>
    #v[0x67452301, 0xEFCDAB89, 0x98BADCFE, 0x10325476,
        0xC3D2E1F0, 0, 0, 0]
  | .sha2_256 =>
    if dsz = 224 then
      #v[0xC1059ED8, 0x367CD507, 0x3070DD17, 0xF70E5939,
        0xFFC00B31, 0x68581511, 0x64F98FA7, 0xBEFA4FA4]
    else if dsz = 256 then
      #v[0x6A09E667, 0xBB67AE85, 0x3C6EF372, 0xA54FF53A,
        0x510E527F, 0x9B05688C, 0x1F83D9AB, 0x5BE0CD19]
    else Vector.replicate 8 0
  | .sha2_512 =>
    if dsz = 224 then
      #v[0x8C3D37C819544DA2, 0x73E1996689DCD4D6, 0x1DFAB7AE32FF9C82, 0x679DD514582F9FCF,
        0x0F6D2B697BD44DA8, 0x77E36F7304C48942, 0x3F9D85A86A1D36C8, 0x1112E6AD91D692A1]
    else if dsz = 256 then
      #v[0x22312194FC2BF72C, 0x9F555FA3C84C64C2, 0x2393B86B6F53B151, 0x963877195940EABD,
        0x96283EE2A88EFFE3, 0xBE5E1E2553863992, 0x2B0199FC2C85B8AA, 0x0EB72DDC81C52CA2]
    else if dsz = 384 then
      #v[0xCBBB9D5DC1059ED8, 0x629A292A367CD507, 0x9159015A3070DD17, 0x152FECD8F70E5939,
        0x67332667FFC00B31, 0x8EB44A8768581511, 0xDB0C2E0D64F98FA7, 0x47B5481DBEFA4FA4]
    else if dsz = 512 then
      #v[0x6A09E667F3BCC908, 0xBB67AE8584CAA73B, 0x3C6EF372FE94F82B, 0xA54FF53A5F1D36F1,
        0x510E527FADE682D1, 0x9B05688C2B3E6C1F, 0x1F83D9ABFB41BD6B, 0x5BE0CD19137E2179]
    else Vector.replicate 8 0
  | .md2 | .sha3 | .shake128 | .shake256 | .blake2b => Vector.replicate 8 0

/-- resetState of the length-padded algorithms (R175). -/
def mdResetState (a : Alg) (c : Cfg) (e : Engine) : Engine := { e with mdH := mdIV a c.dsz.toNat }

end Sys2Proof.Machine
end

