-- ==== Sys2Proof/Machine/Keccak.lean ====
section
/-! DEFINITION. The permutation Keccak-f[1600] (spec/45_keccak_permutation.md R280 to R286). Lane (x, y) is at
index x + 5y; indices x and y are taken mod 5. -/

namespace Sys2Proof.Machine

/-- The 25 lanes (10_state.md R34). -/
abbrev Lanes := Vector Lane 25

/-- `Bytes(A)` (R280). -/
def bytesOfLanes (A : Lanes) : List Byte := A.toList.flatMap putLe64

/-- `Lanes(S)` (R280). -/
def lanesOfBytes (S : List Byte) : Lanes := Vector.ofFn fun i => le64 S (8 * i.1)

/-- `A[x, y]` (R280). -/
def laneAt (A : Lanes) (x y : Nat) : Lane := A[x % 5 + 5 * (y % 5)]

/-- The column parity `Cp[x]` (R281). -/
def columnParity (A : Lanes) (x : Nat) : Lane :=
  laneAt A x 0 ^^^ laneAt A x 1 ^^^ laneAt A x 2 ^^^ laneAt A x 3 ^^^ laneAt A x 4

/-- The five column parities. -/
def columnParities (A : Lanes) : Vector Lane 5 := Vector.ofFn fun x => columnParity A x.1

/-- `D[x]`, from the column parities (R281). -/
def thetaEffect (cp : Vector Lane 5) (x : Nat) : Lane := cp[(x + 4) % 5] ^^^ rotl cp[(x + 1) % 5] 1

/-- θ (R281). -/
def theta (A : Lanes) : Lanes :=
  let cp := columnParities A
  Vector.ofFn fun i => A[i] ^^^ thetaEffect cp (i.1 % 5)

/-- `RHO[0..25)` (R282). -/
def rhoTable : List Nat :=
  [0, 1, 62, 28, 27,
   36, 44, 6, 55, 20,
   3, 10, 43, 25, 39,
   41, 45, 15, 21, 8,
   18, 2, 61, 56, 14]

/-- ρ (R282). -/
def rho (A : Lanes) : Lanes := Vector.ofFn fun i => rotl A[i] (rhoTable.getD i.1 0)

/-- π: the new lane at (x, y) is the old lane at ((x + 3y) mod 5, x) (R283). -/
def piStep (A : Lanes) : Lanes := Vector.ofFn fun i => laneAt A (i.1 % 5 + 3 * (i.1 / 5)) (i.1 % 5)

/-- χ (R284). -/
def chi (A : Lanes) : Lanes :=
  Vector.ofFn fun i => A[i] ^^^ (~~~(laneAt A (i.1 % 5 + 1) (i.1 / 5)) &&& laneAt A (i.1 % 5 + 2) (i.1 / 5))

/-- `RC[0..24)` (R285). -/
def keccakRC : List Lane :=
  [0x0000000000000001, 0x0000000000008082, 0x800000000000808A, 0x8000000080008000] ++
  [0x000000000000808B, 0x0000000080000001, 0x8000000080008081, 0x8000000000008009] ++
  [0x000000000000008A, 0x0000000000000088, 0x0000000080008009, 0x000000008000000A] ++
  [0x000000008000808B, 0x800000000000008B, 0x8000000000008089, 0x8000000000008003] ++
  [0x8000000000008002, 0x8000000000000080, 0x000000000000800A, 0x800000008000000A] ++
  [0x8000000080008081, 0x8000000000008080, 0x0000000080000001, 0x8000000080008008]

/-- ι (R285). -/
def iota (rnd : Nat) (A : Lanes) : Lanes := A.set 0 (A[0] ^^^ keccakRC.getD rnd 0)

/-- One round: θ, ρ, π, χ, ι in this order (R286). -/
def keccakRound (rnd : Nat) (A : Lanes) : Lanes := iota rnd (chi (piStep (rho (theta A))))

/-- `KeccakF(A)` (R286). -/
def keccakF (A : Lanes) : Lanes := (List.range 24).foldl (fun A rnd => keccakRound rnd A) A

end Sys2Proof.Machine
end

