-- ==== Sys2Proof/Machine/Sponge.lean ====
section
/-! DEFINITION. The sponge controller of SHA-3 and SHAKE (spec/46_sponge.md R310 to R316). -/

namespace Sys2Proof.Machine

/-- The first bytes of `S` XORed with `B` (R311). -/
def xorPrefix : (S B : List Byte) → List Byte
  | s :: S, b :: B => (s ^^^ b) :: xorPrefix S B
  | S, _ => S

/-- `Absorb(B)`, B being RATE bytes (R311). -/
def spongeAbsorb (A : Lanes) (B : List Byte) : Lanes := keccakF (lanesOfBytes (xorPrefix (bytesOfLanes A) B))

/-- transformBlock of SHA-3 and SHAKE (R312). -/
def spongeTransformBlock (e : Engine) (B : List Byte) : Engine := { e with lanes := spongeAbsorb e.lanes B }

/-- The domain byte DS: 0x06 for SHA-3, 0x1F for SHAKE (R310). -/
def domainByte (a : Alg) : Byte :=
  match a with
  | .shake128 | .shake256 => 0x1F
  | _ => 0x06

/-- `Pad(P, L)` for a rate in bytes: one merged byte where exactly one fits, else DS and a final 0x80 (R314,
90_conflicts.md C1). -/
def spongePad (ds : Byte) (rate : Nat) (P : List Byte) : List Byte :=
  let B := P ++ zeros (rate - P.length)
  if P.length = rate - 1 then B.set P.length (ds ||| 0x80)
  else (B.set P.length ds).set (rate - 1) 0x80

/-- `Squeeze(N)` with a bound on the number of further permutations (R315): take what one state gives, and
permute again while output remains. -/
def squeezeLoop (rate : Nat) : (fuel : Nat) → (A : Lanes) → (n : Nat) → List Byte
  | 0, A, n => (bytesOfLanes A).take (min rate n)
  | fuel + 1, A, n =>
    (bytesOfLanes A).take (min rate n) ++
      (if n ≤ rate then [] else squeezeLoop rate fuel (keccakF A) (n - rate))

/-- `Squeeze(N)` (R315): fewer than N further permutations are ever needed. -/
def squeeze (rate : Nat) (A : Lanes) (n : Nat) : List Byte := squeezeLoop rate n A n

/-- transformFinal of SHA-3 and SHAKE (R316). -/
def spongeFinal (a : Alg) (c : Cfg) (e : Engine) (P : List Byte) : List Byte :=
  squeeze c.blk.toNat (spongeAbsorb e.lanes (spongePad (domainByte a) c.blk.toNat P)) c.dlen.toNat

end Sys2Proof.Machine
end

