-- ==== Sys2Proof/Machine/Hooks.lean ====
section
/-! DEFINITION. The three hooks, chosen by ST.ALG (spec/40_buffering_engine.md R130, R131). An unconfigured
engine has no row in R130 and no command reaches a hook on it (notes/assumptions/3.md): its hooks do nothing. -/

namespace Sys2Proof.Machine

/-- `transformBlock(B)` (R130). -/
def transformBlock (c : Cfg) (e : Engine) (B : List Byte) : Engine :=
  match c.alg with
  | none => e
  | some .md2 => md2TransformBlock e B
  | some .md4 => mdTransformBlock .md4 e B
  | some .md5 => mdTransformBlock .md5 e B
  | some .sha1 => mdTransformBlock .sha1 e B
  | some .sha2_256 => mdTransformBlock .sha2_256 e B
  | some .sha2_512 => mdTransformBlock .sha2_512 e B
  | some .sha3 => spongeTransformBlock e B
  | some .shake128 => spongeTransformBlock e B
  | some .shake256 => spongeTransformBlock e B
  | some .ripemd128 => mdTransformBlock .ripemd128 e B
  | some .ripemd160 => mdTransformBlock .ripemd160 e B
  | some .blake2b => blakeTransformBlock e B

/-- `transformFinal(P, L)`, L being the length of `P`: the DLEN bytes of the digest (R130, R131). What it
leaves in the working state is not kept, since every DIGEST then resets (R126). -/
def transformFinal (c : Cfg) (e : Engine) (P : List Byte) : List Byte :=
  match c.alg with
  | none => []
  | some .md2 => md2Final e P
  | some .md4 => mdFinal .md4 c e P
  | some .md5 => mdFinal .md5 c e P
  | some .sha1 => mdFinal .sha1 c e P
  | some .sha2_256 => mdFinal .sha2_256 c e P
  | some .sha2_512 => mdFinal .sha2_512 c e P
  | some .sha3 => spongeFinal .sha3 c e P
  | some .shake128 => spongeFinal .shake128 c e P
  | some .shake256 => spongeFinal .shake256 c e P
  | some .ripemd128 => mdFinal .ripemd128 c e P
  | some .ripemd160 => mdFinal .ripemd160 c e P
  | some .blake2b => blakeFinal c e P

/-- `resetState()` (R130). MD2 and the sponge write nothing more than Reset() has (42_md2_md4_md5.md R190,
46_sponge.md R313). -/
def resetState (c : Cfg) (e : Engine) : Engine :=
  match c.alg with
  | none => e
  | some .md2 => e
  | some .md4 => mdResetState .md4 c e
  | some .md5 => mdResetState .md5 c e
  | some .sha1 => mdResetState .sha1 c e
  | some .sha2_256 => mdResetState .sha2_256 c e
  | some .sha2_512 => mdResetState .sha2_512 c e
  | some .sha3 => e
  | some .shake128 => e
  | some .shake256 => e
  | some .ripemd128 => mdResetState .ripemd128 c e
  | some .ripemd160 => mdResetState .ripemd160 c e
  | some .blake2b => blakeResetState c e

end Sys2Proof.Machine
end

