-- ==== Sys2Proof/Machine/Engine.lean ====
section
/-! DEFINITION. The byte-buffering engine (spec/40_buffering_engine.md): Reset(), the buffering loop of INPUT,
and the finalization of DIGEST. -/

namespace Sys2Proof.Machine

/-- The working state that `Reset()` leaves under a configuration (R129). -/
def freshEngine (c : Cfg) : Engine := resetState c Engine.zero

/-- `Reset()`: the configuration, the flags, RESULT and the ARG registers stay (R129). -/
def Inst.resetEngine (I : Inst) : Inst := { I with eng := freshEngine I.cfg }

/-- A byte stored at the fill offset (R124). -/
def storeByte (e : Engine) (b : Byte) : Engine :=
  { e with buf := e.buf.setIfInBounds e.off.toNat b, off := e.off + 1 }

/-- The whole block of a full buffer, `ST.BUF[0..ST.BLK)` (R124). -/
def bufferBlock (c : Cfg) (e : Engine) : List Byte := e.buf.toList.take c.blk.toNat

/-- A full buffer is handed to the block hook and the offset returns to 0 (R124). -/
def drainBuffer (c : Cfg) (e : Engine) : Engine :=
  if e.off = c.blk then { transformBlock c e (bufferBlock c e) with off := 0 } else e

/-- One turn of INPUT's loop (R124). -/
def absorbByte (c : Cfg) (e : Engine) (b : Byte) : Engine := drainBuffer c (storeByte e b)

/-- INPUT's loop over the bytes of a call (R124). -/
def absorbBytes (c : Cfg) (e : Engine) (bs : List Byte) : Engine := bs.foldl (absorbByte c) e

/-- The effect of absorbing the bytes of one call: the loop, then LEN grows by 8 per byte (R124). -/
def inputBytes (c : Cfg) (e : Engine) (bs : List Byte) : Engine :=
  { absorbBytes c e bs with len := (absorbBytes c e bs).len + BitVec.ofNat 128 (8 * bs.length) }

/-- The partial block, `ST.BUF[0..ST.OFF)` (R125). -/
def partialBlock (e : Engine) : List Byte := e.buf.toList.take e.off.toNat

/-- The digest of what the engine has absorbed (R125). -/
def digestBytes (c : Cfg) (e : Engine) : List Byte := transformFinal c e (partialBlock e)

end Sys2Proof.Machine
end

