-- ==== Sys2Proof/Machine/Configure.lean ====
section
/-! DEFINITION. The CONFIGURE commands (spec/40_buffering_engine.md R121, R122). -/

namespace Sys2Proof.Machine

/-- What `Params` returns (R122). -/
structure Params where
  dsz : Nat
  dlen : Nat
  blk : Nat
  deriving DecidableEq, Repr

/-- The SHA-3 rate of a digest size in bits (R122). -/
def sha3Rate (dsz : Nat) : Nat :=
  if dsz = 224 then 144 else if dsz = 256 then 136 else if dsz = 384 then 104 else 72

/-- `Params(alg, a0, a2)`, none being ⊥ (R122). -/
def paramsOf (alg : Alg) (a0 a2 : Int) : Option Params :=
  match alg with
  | .md2 => some { dsz := 0, dlen := 16, blk := 16 }
  | .md4 => some { dsz := 0, dlen := 16, blk := 64 }
  | .md5 => some { dsz := 0, dlen := 16, blk := 64 }
  | .sha1 => some { dsz := 0, dlen := 20, blk := 64 }
  | .sha2_256 =>
    if a0 = 224 ∨ a0 = 256 then some { dsz := a0.toNat, dlen := a0.toNat / 8, blk := 64 } else none
  | .sha2_512 =>
    if a0 = 224 ∨ a0 = 256 ∨ a0 = 384 ∨ a0 = 512 then
      some { dsz := a0.toNat, dlen := a0.toNat / 8, blk := 128 } else none
  | .sha3 =>
    if a0 = 224 ∨ a0 = 256 ∨ a0 = 384 ∨ a0 = 512 then
      some { dsz := a0.toNat, dlen := a0.toNat / 8, blk := sha3Rate a0.toNat } else none
  | .shake128 => if 0 ≤ a0 then some { dsz := 0, dlen := a0.toNat, blk := 168 } else none
  | .shake256 => if 0 ≤ a0 then some { dsz := 0, dlen := a0.toNat, blk := 136 } else none
  | .ripemd128 => some { dsz := 0, dlen := 16, blk := 64 }
  | .ripemd160 => some { dsz := 0, dlen := 20, blk := 64 }
  | .blake2b =>
    if 1 ≤ a0 ∧ a0 ≤ 64 ∧ 0 ≤ a2 ∧ a2 ≤ 64 then some { dsz := 0, dlen := a0.toNat, blk := 128 } else none

/-- The configuration fields a successful CONFIGURE writes (R121). -/
def cfgOf (alg : Alg) (p : Params) (key : List Byte) : Cfg :=
  { alg := some alg, dsz := BitVec.ofNat 16 p.dsz, dlen := BitVec.ofNat 64 p.dlen,
    blk := BitVec.ofNat 8 p.blk, key := padVec 64 key, keyLen := BitVec.ofNat 7 key.length }

/-- A freshly configured instance: the new configuration, CONFIGURED set, Reset(), ERR = OK (R121). -/
def Inst.construct (I : Inst) (c : Cfg) : Inst :=
  { I with cfg := c, configured := true, eng := freshEngine c, err := .ok }

/-- The key a CONFIGURE reads: the region (ARG1, ARG2) of HM for BLAKE2b, none for the others (R121). -/
def keyBytes (alg : Alg) (s : State) (I : Inst) : List Byte :=
  if alg = .blake2b then s.hm.readBytes I.argInt1.toNat I.argInt2.toNat else []

/-- `Configure(alg)` (R121): the parameters, then for BLAKE2b the key region, then the effect. -/
def configure (alg : Alg) (s : State) : Host.Outcome State Fault Refusal :=
  issue s fun I =>
    match paramsOf alg I.argInt0 I.argInt2 with
    | none => raise .invalidConfiguration I s
    | some p =>
      if alg = .blake2b ∧ validRegion s.hmSize I.argInt1 I.argInt2 = false then raise .invalidArgument I s
      else .next (s.commit (I.construct (cfgOf alg p (keyBytes alg s I))))

/-- CONFIGURE MD2 (R121). -/
def execConfigureMd2 (s : State) : Host.Outcome State Fault Refusal := configure .md2 s

/-- CONFIGURE MD4 (R121). -/
def execConfigureMd4 (s : State) : Host.Outcome State Fault Refusal := configure .md4 s

/-- CONFIGURE MD5 (R121). -/
def execConfigureMd5 (s : State) : Host.Outcome State Fault Refusal := configure .md5 s

/-- CONFIGURE SHA1 (R121). -/
def execConfigureSha1 (s : State) : Host.Outcome State Fault Refusal := configure .sha1 s

/-- CONFIGURE SHA2_256 (R121). -/
def execConfigureSha2_256 (s : State) : Host.Outcome State Fault Refusal := configure .sha2_256 s

/-- CONFIGURE SHA2_512 (R121). -/
def execConfigureSha2_512 (s : State) : Host.Outcome State Fault Refusal := configure .sha2_512 s

/-- CONFIGURE SHA3 (R121). -/
def execConfigureSha3 (s : State) : Host.Outcome State Fault Refusal := configure .sha3 s

/-- CONFIGURE SHAKE128 (R121). -/
def execConfigureShake128 (s : State) : Host.Outcome State Fault Refusal := configure .shake128 s

/-- CONFIGURE SHAKE256 (R121). -/
def execConfigureShake256 (s : State) : Host.Outcome State Fault Refusal := configure .shake256 s

/-- CONFIGURE RIPEMD128 (R121). -/
def execConfigureRipemd128 (s : State) : Host.Outcome State Fault Refusal := configure .ripemd128 s

/-- CONFIGURE RIPEMD160 (R121). -/
def execConfigureRipemd160 (s : State) : Host.Outcome State Fault Refusal := configure .ripemd160 s

/-- CONFIGURE BLAKE2B (R121). -/
def execConfigureBlake2b (s : State) : Host.Outcome State Fault Refusal := configure .blake2b s

/-- CONFIGURE with an ALG code of no supported family: Params is ⊥, so INVALID_CONFIGURATION (R122,
30_encoding.md R97). The code itself has no other effect. -/
def execConfigureUnsupported (_alg : Byte) (s : State) : Host.Outcome State Fault Refusal :=
  issue s fun I => raise .invalidConfiguration I s

end Sys2Proof.Machine
end

