-- ==== Sys2Proof/Machine/Stream.lean ====
section
/-! DEFINITION. The commands INPUT, DIGEST, DIGEST0 and RESET (spec/40_buffering_engine.md R123 to R129). -/

namespace Sys2Proof.Machine

/-- INPUT's operand check (R123). -/
def inputArgsOk (hmSize : Nat) (base size o n : Int) : Bool :=
  decide (0 ≤ o) && decide (0 ≤ n) && decide (o + n ≤ size) && validRegion hmSize base size

/-- The bytes INPUT reads, `base + o` to `base + o + n − 1` in ascending order (20_memory.md R66). -/
def inputMessage (s : State) (I : Inst) : List Byte :=
  s.hm.readBytes (I.argInt0 + I.argInt2).toNat I.argInt3.toNat

/-- INPUT: absorb n message bytes (R124). -/
def execInput (s : State) : Host.Outcome State Fault Refusal :=
  issueConfigured s fun I =>
    if inputArgsOk s.hmSize I.argInt0 I.argInt1 I.argInt2 I.argInt3 then
      .next (s.commit { I with eng := inputBytes I.cfg I.eng (inputMessage s I), err := .ok })
    else raise .invalidArgument I s

/-- DIGEST's operand check (R125, 90_conflicts.md C7). -/
def digestArgsOk (hmSize : Nat) (dlen : Nat) (base size o : Int) : Bool :=
  decide (0 ≤ o) && decide ((dlen : Int) ≤ size - o) && validRegion hmSize base size

/-- A successful digest: the digest stored from `addr` up, RESULT the base, Reset(), ERR = OK (R125). -/
def finishDigest (s : State) (I : Inst) (addr : Nat) : State :=
  { s with hm := s.hm.writeBytes addr (digestBytes I.cfg I.eng) }.commit
    { I.resetEngine with result := I.arg0, err := .ok }

/-- `Digest(base, size, o)`, base being ARG0 (R125): the operand check, the defensive check, the effect. -/
def digestTo (s : State) (I : Inst) (size o : Int) : Host.Outcome State Fault Refusal :=
  if digestArgsOk s.hmSize I.cfg.dlen.toNat I.argInt0 size o = false then raise .invalidArgument I s
  else if ¬ I.eng.off.toNat < I.cfg.blk.toNat then raiseFatal I s
  else .next (finishDigest s I (I.argInt0 + o).toNat)

/-- DIGEST: finalize, write the digest, reset (R125). -/
def execDigest (s : State) : Host.Outcome State Fault Refusal :=
  issueConfigured s fun I => digestTo s I I.argInt1 I.argInt2

/-- DIGEST0: the digest to a region of exactly DLEN bytes at ARG0 (R128). -/
def execDigest0 (s : State) : Host.Outcome State Fault Refusal :=
  issueConfigured s fun I => digestTo s I I.cfg.dlen.toNat 0

/-- RESET: the state after configuration (R129). -/
def execReset (s : State) : Host.Outcome State Fault Refusal :=
  issueConfigured s fun I => .next (s.commit { I.resetEngine with err := .ok })

end Sys2Proof.Machine
end

