-- ==== Sys2Proof/Machine/Dispatch.lean ====
section
/-! DEFINITION. One arm per command (spec/40_buffering_engine.md R120). -/

namespace Sys2Proof.Machine

/-- The command `i` on the selected instance. -/
def exec (i : Instr) (s : State) : Host.Outcome State Fault Refusal :=
  match i with
  | .configureMd2 => Sys2Proof.Machine.execConfigureMd2 s
  | .configureMd4 => Sys2Proof.Machine.execConfigureMd4 s
  | .configureMd5 => Sys2Proof.Machine.execConfigureMd5 s
  | .configureSha1 => Sys2Proof.Machine.execConfigureSha1 s
  | .configureSha2_256 => Sys2Proof.Machine.execConfigureSha2_256 s
  | .configureSha2_512 => Sys2Proof.Machine.execConfigureSha2_512 s
  | .configureSha3 => Sys2Proof.Machine.execConfigureSha3 s
  | .configureShake128 => Sys2Proof.Machine.execConfigureShake128 s
  | .configureShake256 => Sys2Proof.Machine.execConfigureShake256 s
  | .configureRipemd128 => Sys2Proof.Machine.execConfigureRipemd128 s
  | .configureRipemd160 => Sys2Proof.Machine.execConfigureRipemd160 s
  | .configureBlake2b => Sys2Proof.Machine.execConfigureBlake2b s
  | .configureUnsupported alg => Sys2Proof.Machine.execConfigureUnsupported alg s
  | .input => Sys2Proof.Machine.execInput s
  | .digest => Sys2Proof.Machine.execDigest s
  | .digest0 => Sys2Proof.Machine.execDigest0 s
  | .reset => Sys2Proof.Machine.execReset s

end Sys2Proof.Machine
end

