-- ==== Sys2Proof/Machine/Step.lean ====
section
/-! DEFINITION. One step: the host's next access (spec/20_memory.md R67, R71; 70_reset_and_hazards.md R411). A
write to CMD is one whole command, decoded and run on its instance; an illegal value only raises
ILLEGAL_COMMAND. With no access left the block is idle. -/

namespace Sys2Proof.Machine

/-- The command value `v` on the selected instance: `Exec(v)` (40_buffering_engine.md R120). -/
def execValue (v : Lane) (s : State) : Host.Outcome State Fault Refusal :=
  match decode v with
  | .ok i => exec i s
  | .error _ => illegalCommand s

/-- One access of the host's program. -/
def step (s : State) : Host.Outcome State Fault Refusal :=
  match s.program with
  | [] => idle s
  | a :: rest =>
    match commandOf a with
    | some (k, v) => execValue v ({ s with program := rest }.select k)
    | none => hostAccess a { s with program := rest }

/-- The host's question: `s` with the command value `w`, of `nbits` bits, as the next access. -/
def State.withFetchWord (s : State) (nbits w : Nat) : State :=
  queueCommand s (BitVec.ofNat 64 (w % 2 ^ nbits))

end Sys2Proof.Machine
end

