-- ==== Sys2Proof/Safety.lean ====
section
/-! DEFINITION. What a safe state is, and the notions claims are stated in: the invariants of
spec/10_state.md R30 and R40, the error a command leaves, and the bytes of HM a command touches
(20_memory.md R66). -/

namespace Sys2Proof

/-- The commands that configure (30_encoding.md R91, OP 0x01). -/
def Instr.isConfigure : Instr → Bool
  | .input | .digest | .digest0 | .reset => false
  | .configureMd2 | .configureMd4 | .configureMd5 | .configureSha1 | .configureSha2_256 | .configureSha2_512
  | .configureSha3 | .configureShake128 | .configureShake256 | .configureRipemd128 | .configureRipemd160
  | .configureBlake2b | .configureUnsupported _ => true

end Sys2Proof

namespace Sys2Proof.Machine

/-- No key is held (10_state.md R29). -/
def Cfg.noKey (c : Cfg) : Bool := decide (c.key = Vector.replicate 64 0) && decide (c.keyLen = 0)

/-- The key bytes at and above KEYLEN are 0 (10_state.md R29). -/
def Cfg.keyPadded (c : Cfg) : Bool :=
  decide (c.keyLen.toNat ≤ 64) && (c.key.toList.drop c.keyLen.toNat).all (fun b => decide (b = 0))

/-- The configuration fields are those of a row of 00_scope.md R8. -/
def Cfg.ok (c : Cfg) : Bool :=
  match c.alg with
  | none => false
  | some .md2 => decide (c.dsz = 0) && decide (c.dlen = 16) && decide (c.blk = 16) && c.noKey
  | some .md4 => decide (c.dsz = 0) && decide (c.dlen = 16) && decide (c.blk = 64) && c.noKey
  | some .md5 => decide (c.dsz = 0) && decide (c.dlen = 16) && decide (c.blk = 64) && c.noKey
  | some .sha1 => decide (c.dsz = 0) && decide (c.dlen = 20) && decide (c.blk = 64) && c.noKey
  | some .sha2_256 =>
    decide ((c.dsz = 224 ∧ c.dlen = 28) ∨ (c.dsz = 256 ∧ c.dlen = 32)) && decide (c.blk = 64) && c.noKey
  | some .sha2_512 =>
    decide ((c.dsz = 224 ∧ c.dlen = 28) ∨ (c.dsz = 256 ∧ c.dlen = 32) ∨ (c.dsz = 384 ∧ c.dlen = 48) ∨
      (c.dsz = 512 ∧ c.dlen = 64)) && decide (c.blk = 128) && c.noKey
  | some .sha3 =>
    decide ((c.dsz = 224 ∧ c.dlen = 28 ∧ c.blk = 144) ∨ (c.dsz = 256 ∧ c.dlen = 32 ∧ c.blk = 136) ∨
      (c.dsz = 384 ∧ c.dlen = 48 ∧ c.blk = 104) ∨ (c.dsz = 512 ∧ c.dlen = 64 ∧ c.blk = 72)) && c.noKey
  | some .shake128 =>
    decide (c.dsz = 0) && decide (c.dlen.toNat < 2 ^ 63) && decide (c.blk = 168) && c.noKey
  | some .shake256 =>
    decide (c.dsz = 0) && decide (c.dlen.toNat < 2 ^ 63) && decide (c.blk = 136) && c.noKey
  | some .ripemd128 => decide (c.dsz = 0) && decide (c.dlen = 16) && decide (c.blk = 64) && c.noKey
  | some .ripemd160 => decide (c.dsz = 0) && decide (c.dlen = 20) && decide (c.blk = 64) && c.noKey
  | some .blake2b =>
    decide (c.dsz = 0) && decide (1 ≤ c.dlen.toNat ∧ c.dlen.toNat ≤ 64) && decide (c.blk = 128) && c.keyPadded

/-- The engine holds the effect of absorbing the message `M` since the last reset (00_scope.md R18,
10_state.md R40). -/
def Inst.holds (I : Inst) (M : List Byte) : Prop := I.eng = inputBytes I.cfg (freshEngine I.cfg) M

/-- The invariant of an instance: no internal error, an unconfigured instance as hardware reset leaves it
(70_reset_and_hazards.md R401), and a configured one holding some message (10_state.md R40). -/
def Inst.Inv (I : Inst) : Prop :=
  I.fatal = false ∧ I.err ≠ .internalInvariant ∧
  (I.configured = false → I.cfg = Cfg.zero ∧ I.eng = Engine.zero) ∧
  (I.configured = true → I.cfg.ok = true ∧ ∃ M, I.holds M)

/-- The invariant of the machine: HM canonical and inside HMSIZE, at least one instance, every instance's
invariant. -/
def State.Inv (s : State) : Prop :=
  s.hm.wf = true ∧ s.hm.below s.hmSize = true ∧ s.instances ≠ [] ∧ ∀ I ∈ s.instances, I.Inv

/-- The ERR code of the selected instance after a command. -/
def errAfter : Host.Outcome State Fault Refusal → Option ErrCode
  | .next t => t.inst?.map fun J => J.err
  | .fault _ => none
  | .refused _ => none

/-- The configurations that CONFIGURE rejects, in full (60_exceptions.md R388). -/
def rejectedConfiguration (i : Instr) (a0 a2 : Int) : Prop :=
  match i with
  | .configureUnsupported _ => True
  | .configureSha2_256 => a0 ≠ 224 ∧ a0 ≠ 256
  | .configureSha2_512 | .configureSha3 => a0 ≠ 224 ∧ a0 ≠ 256 ∧ a0 ≠ 384 ∧ a0 ≠ 512
  | .configureShake128 | .configureShake256 => a0 < 0
  | .configureBlake2b => ¬(1 ≤ a0 ∧ a0 ≤ 64) ∨ ¬(0 ≤ a2 ∧ a2 ≤ 64)
  | .configureMd2 | .configureMd4 | .configureMd5 | .configureSha1 | .configureRipemd128 | .configureRipemd160
  | .input | .digest | .digest0 | .reset => False

/-- The bytes of HM a successful command reads (20_memory.md R66). -/
def commandReads (i : Instr) (I : Inst) (a : Nat) : Bool :=
  match i with
  | .input =>
    decide (I.argInt0 + I.argInt2 ≤ a) && decide ((a : Int) < I.argInt0 + I.argInt2 + I.argInt3)
  | .configureBlake2b => decide (I.argInt1 ≤ a) && decide ((a : Int) < I.argInt1 + I.argInt2)
  | _ => false

/-- The bytes of HM a successful command writes (20_memory.md R66). -/
def commandWrites (i : Instr) (I : Inst) (a : Nat) : Bool :=
  match i with
  | .digest =>
    decide (I.argInt0 + I.argInt2 ≤ a) && decide ((a : Int) < I.argInt0 + I.argInt2 + I.cfg.dlen.toNat)
  | .digest0 => decide (I.argInt0 ≤ a) && decide ((a : Int) < I.argInt0 + I.cfg.dlen.toNat)
  | _ => false

/-- The blocks INPUT's loop hands to transformBlock, in order (40_buffering_engine.md R124). -/
def absorbTrace (c : Cfg) : (e : Engine) → List Byte → List (List Byte)
  | _, [] => []
  | e, b :: bs =>
    (if (storeByte e b).off = c.blk then [bufferBlock c (storeByte e b)] else []) ++
      absorbTrace c (absorbByte c e b) bs

/-- The validity of a region, over the integers (20_memory.md R61). -/
def Valid (hmSize : Nat) (base size : Int) : Prop := 0 ≤ base ∧ 0 ≤ size ∧ base + size ≤ hmSize

/-- When a CMD value is illegal (30_encoding.md R95), its fields taken by arithmetic on the number. -/
def IllegalValue (v : Lane) : Prop :=
  ¬(1 ≤ v.toNat % 256 ∧ v.toNat % 256 ≤ 5) ∨ v.toNat / 65536 ≠ 0 ∨
    (v.toNat % 256 ≠ 1 ∧ v.toNat / 256 % 256 ≠ 0)

/-- The values of 70_reset_and_hazards.md R400's table, row by row. -/
def Inst.isReset (J : Inst) : Prop :=
  (J.arg0 = 0 ∧ J.arg1 = 0 ∧ J.arg2 = 0 ∧ J.arg3 = 0) ∧
  (J.err = .ok ∧ J.configured = false ∧ J.fatal = false ∧ J.result = 0) ∧
  (∀ offset, J.readSlot offset = 0) ∧
  (J.cfg.alg = none ∧ J.cfg.dsz = 0 ∧ J.cfg.dlen = 0 ∧ J.cfg.blk = 0 ∧ J.cfg.keyLen = 0) ∧
  (∀ k : Fin 64, J.cfg.key[k] = 0) ∧
  (∀ k : Fin 168, J.eng.buf[k] = 0) ∧ J.eng.off = 0 ∧ J.eng.len = 0 ∧
  (∀ k : Fin 8, J.eng.mdH[k] = 0) ∧ (∀ k : Fin 16, J.eng.md2X[k] = 0 ∧ J.eng.md2C[k] = 0) ∧
  (∀ k : Fin 25, J.eng.lanes[k] = 0) ∧
  (∀ k : Fin 8, J.eng.blakeH[k] = 0) ∧ J.eng.blakeT = 0 ∧ J.eng.pend = false ∧
  (∀ k : Fin 128, J.eng.pb[k] = 0)

/-- A configuration without a key (10_state.md R29). -/
def Cfg.unkeyed (alg : Alg) (dsz dlen blk : Nat) : Cfg :=
  { alg := some alg, dsz := BitVec.ofNat 16 dsz, dlen := BitVec.ofNat 64 dlen, blk := BitVec.ofNat 8 blk,
    key := Vector.replicate 64 0, keyLen := 0 }

/-! ### A sequence of INPUT commands -/

/-- The four operands of a command. -/
structure Operands where
  a0 : Lane
  a1 : Lane
  a2 : Lane
  a3 : Lane
  deriving DecidableEq, Repr

/-- The state with the selected instance's ARG registers written. -/
def State.withArgs (s : State) (a : Operands) : State :=
  match s.inst? with
  | none => s
  | some I => s.commit { I with arg0 := a.a0, arg1 := a.a1, arg2 := a.a2, arg3 := a.a3 }

/-- The message bytes that an INPUT with these operands presents (40_buffering_engine.md R124). -/
def callBytes (m : Memory) (a : Operands) : List Byte :=
  m.readBytes (a.a0.toInt + a.a2.toInt).toNat a.a3.toInt.toNat

/-- The state after a sequence of INPUT commands, if every one of them succeeds. -/
def inputCalls : List Operands → State → Option State
  | [], s => some s
  | a :: as, s =>
    match exec .input (s.withArgs a) with
    | .next t => if errAfter (.next t) = some .ok then inputCalls as t else none
    | .fault _ => none
    | .refused _ => none

/-- The blocks that a sequence of INPUT commands hands to transformBlock. -/
def callsTrace : List Operands → State → List (List Byte)
  | [], _ => []
  | a :: as, s =>
    match s.inst?, exec .input (s.withArgs a) with
    | some I, .next t => absorbTrace I.cfg I.eng (callBytes s.hm a) ++ callsTrace as t
    | _, _ => []

/-! ### The hashes of whole messages

What the algorithms compute, said on the whole message at once: no buffer, no fill offset, no commands. -/

/-- The whole blocks of `n` bytes of a byte string. -/
def blocksOf (n : Nat) (M : List Byte) : List (List Byte) :=
  (List.range (M.length / n)).map fun i => bytesAt M (n * i) n

/-- The padding of a message of `len` bytes: 0x80, zeros, the bit length, to a multiple of the block size
(41_md_framework.md R173). -/
def mdPadding (a : Alg) (blk len : Nat) : List Byte :=
  [0x80] ++ zeros ((blk - (len + 1 + mdLengthField a) % blk) % blk) ++
    mdLengthBytes a (BitVec.ofNat 128 (8 * len))

/-- The hash of a message by a length-padded algorithm (41_md_framework.md R171 to R175). -/
def mdHash (a : Alg) (c : Cfg) (M : List Byte) : List Byte :=
  (mdSerialize a ((blocksOf c.blk.toNat (M ++ mdPadding a c.blk.toNat M.length)).foldl (mdCompress a)
    (mdIV a c.dsz.toNat))).take c.dlen.toNat

/-- The MD2 padding of a message of `len` bytes (42_md2_md4_md5.md R195). -/
def md2Padding (len : Nat) : List Byte := List.replicate (16 - len % 16) (BitVec.ofNat 8 (16 - len % 16))

/-- The MD2 hash of a message: the padded blocks, then their checksum (42_md2_md4_md5.md R191 to R195). -/
def md2Hash (M : List Byte) : List Byte :=
  let D := blocksOf 16 (M ++ md2Padding M.length)
  (md2Compress (D.foldl md2Compress (Vector.replicate 16 0))
    (D.foldl md2Checksum (Vector.replicate 16 0)).toList).toList

/-- One byte of the MD2 checksum as RFC 1319 keeps it, with the byte written last, L, as a variable of its own
(42_md2_md4_md5.md R191). -/
def md2CarriedByte (B : List Byte) (s : Vector Byte 16 × Byte) (j : Fin 16) : Vector Byte 16 × Byte :=
  let b := s.1[j] ^^^ md2Sub (B.getD j.1 0 ^^^ s.2)
  (s.1.set j b, b)

/-- One block of that checksum: L is carried in from the block before and out to the next (R191). -/
def md2CarriedBlock (s : Vector Byte 16 × Byte) (B : List Byte) : Vector Byte 16 × Byte :=
  (List.finRange 16).foldl (md2CarriedByte B) s

/-- The sponge padding of a message of `len` bytes (46_sponge.md R314). -/
def spongePadding (ds : Byte) (rate len : Nat) : List Byte :=
  if rate - len % rate = 1 then [ds ||| 0x80]
  else [ds] ++ zeros (rate - len % rate - 2) ++ [0x80]

/-- The output of SHA-3 or SHAKE on a message (46_sponge.md R311 to R316). -/
def spongeHash (a : Alg) (c : Cfg) (M : List Byte) : List Byte :=
  squeeze c.blk.toNat
    ((blocksOf c.blk.toNat (M ++ spongePadding (domainByte a) c.blk.toNat M.length)).foldl spongeAbsorb
      (Vector.replicate 25 0))
    c.dlen.toNat

/-- What BLAKE2b compresses before padding: the key block, if there is a key, then the message
(47_blake2b.md R341). -/
def blakeData (c : Cfg) (M : List Byte) : List Byte :=
  (if 0 < c.keyLen.toNat then blakeKeyBlock c else []) ++ M

/-- The number of blocks of `n` bytes of data, at least one. -/
def blakeBlockCount (n : Nat) : Nat := max 1 ((n + 127) / 128)

/-- The BLAKE2b hash of a message: every block with the count of the bytes up to its end, the last one flagged
(47_blake2b.md R341 to R348). -/
def blakeHash (c : Cfg) (M : List Byte) : List Byte :=
  let D := blakeData c M
  let n := blakeBlockCount D.length
  let h := (List.range n).foldl
    (fun h i => blakeF h (bytesAt (D ++ zeros (128 * n - D.length)) (128 * i) 128)
      (BitVec.ofNat 128 (min (128 * (i + 1)) D.length)) (decide (i + 1 = n)))
    (blakeIV.set 0 (blakeIV[0] ^^^ blakeParam c))
  (blakeSerialize h).take c.dlen.toNat

end Sys2Proof.Machine
end

