-- ==== Sys2Proof/Certificates/Slice0/Obligations.lean ====
section
/-! DEFINITION. The statements for the provers. Each docstring names the rules of spec/ that the statement
formalises; what is the model's own choice is said there. -/

section Statements

open Sys2Proof Sys2Proof.Machine

/-! ### Encoding -/

/-- Decoding and encoding agree in both directions, on values, on the bytes of the bus and for the table's
words (30_encoding.md R96, R97, 20_memory.md R64). -/
def Obligations.EncodeDecodeAgree : Prop :=
  (∀ i : Instr, i.wellFormed = true →
    decode (encode i) = .ok i ∧ decodeBytes (putLe 8 (encode i).toNat) = .ok i ∧
      decodeTableWord 64 (encode i).toNat = some i) ∧
  (∀ (v : Lane) (i : Instr), decode v = .ok i → i.wellFormed = true ∧ encode i = v)

/-- 30_encoding.md R95 and 60_exceptions.md R374: which CMD values are illegal, that an illegal one raises
ILLEGAL_COMMAND and changes nothing else (unless FATAL blocks it, R376), and that every other value is the
encoding of a command. -/
def Obligations.IllegalCommandValues : Prop :=
  ∀ v : Lane,
    (IllegalValue v → (∀ i, decode v ≠ .ok i) ∧
      ∀ (s : State) (I : Inst), s.inst? = some I → I.fatal = false →
        execValue v s = .next (s.commit { I with err := .illegalCommand })) ∧
    (¬IllegalValue v → ∃ i : Instr, i.wellFormed = true ∧ decode v = .ok i ∧ encode i = v)

/-- Words of 30_encoding.md R97 written out: each decodes to the command of its row. -/
def Obligations.TableWordsDecode : Prop :=
  decode 0x0000000000000101 = .ok .configureMd2 ∧ decode 0x0000000000000301 = .ok .configureMd5 ∧
  decode 0x0000000000000601 = .ok .configureSha2_512 ∧ decode 0x0000000000000C01 = .ok .configureBlake2b ∧
  decode 0x0000000000000D01 = .ok (.configureUnsupported 0x0D) ∧ decode 0x0000000000000002 = .ok .input ∧
  decode 0x0000000000000003 = .ok .digest ∧ decode 0x0000000000000004 = .ok .digest0 ∧
  decode 0x0000000000000005 = .ok .reset

/-! ### Steps and resets -/

/-- A step runs the decoded command (40_buffering_engine.md R120, 10_state.md R21, R23): when the host's next
access writes the value `v` to CMD of instance `k`, the step removes that access, selects `k`, and is the command
that `v` decodes to, or ILLEGAL_COMMAND's path where it decodes to none. The queue and the selection are the
model's own fields (notes/assumptions/4.md). -/
def Obligations.StepRunsDecodedCommand : Prop :=
  (∀ (s : State) (rest : List HostAccess) (k : Nat) (v : Lane), s.program = cmdWrite k v :: rest →
    (∀ i, decode v = .ok i → step s = exec i { s with program := rest, sel := k }) ∧
    ((∀ i, decode v ≠ .ok i) → step s = illegalCommand { s with program := rest, sel := k })) ∧
  (∀ (s : State) (i : Instr), i.wellFormed = true →
    step (s.withFetchWord 64 (encode i).toNat) = exec i { s with sel := 0 })

/-- 70_reset_and_hazards.md R400: hardware reset gives every instance the table's values and leaves HM as it is,
whatever HM holds; at power-on every instance is in that state too, for any HMSIZE, any NINST and any HM given, and
every contents of HM can be given. That State.reset is the power-on state with no byte of HM listed is the model's
own choice (notes/assumptions/1.md), as is that its HMSIZE and NINST are constants of Config
(notes/assumptions/2.md). -/
def Obligations.HardwareReset : Prop :=
  (∀ (s : State) (rest : List HostAccess), s.program = .hardwareReset :: rest →
    ∃ t, step s = .next t ∧ t.hm = s.hm ∧ t.instances.length = s.instances.length ∧
      ∀ J ∈ t.instances, J.isReset) ∧
  (∀ (n : Fin (2 ^ 63 + 1)) (k : Nat) (hm : Memory),
    (State.powerOn n k hm).hm = hm ∧ (State.powerOn n k hm).hmSize = n ∧
      (State.powerOn n k hm).instances.length = k ∧ ∀ J ∈ (State.powerOn n k hm).instances, J.isReset) ∧
  (∀ (n : Fin (2 ^ 63 + 1)) (f : Nat → Byte), ∃ hm : Memory,
    hm.wf = true ∧ hm.below n = true ∧ ∀ a, a < (n : Nat) → hm.read a = f a) ∧
  State.reset = State.powerOn Config.hmSize Config.ninst [] ∧
  State.reset.instances ≠ [] ∧ ∀ J ∈ State.reset.instances, J.isReset

/-- The invariant holds at power-on, whatever HM holds, and so at reset (70_reset_and_hazards.md R400, R401). -/
def Obligations.ResetMeetsInvariant : Prop :=
  (∀ (n : Fin (2 ^ 63 + 1)) (k : Nat) (hm : Memory), 1 ≤ k → hm.wf = true → hm.below n = true →
    (State.powerOn n k hm).Inv) ∧
  State.reset.Inv

/-- Every step keeps the invariant: HM canonical and inside HMSIZE, FATAL and INTERNAL_INVARIANT unreached
(60_exceptions.md R375), a configuration that is a row of 00_scope.md R8, and an engine that holds the effect of
some message (10_state.md R40). The canonical form rests on notes/assumptions/1.md only through its name
`Memory.fill`. -/
def Obligations.StepKeepsInvariant : Prop :=
  ∀ s t : State, s.Inv → step s = .next t → t.Inv

/-- Every CMD value completes with a result code on an instance that exists (60_exceptions.md R370,
70_reset_and_hazards.md R410); on an instance number that names no window the model faults
(10_state.md R22, notes/assumptions/6.md). -/
def Obligations.EveryCommandCompletes : Prop :=
  ∀ (v : Lane) (s : State),
    (s.sel < s.instances.length → ∃ t e, execValue v s = .next t ∧ errAfter (.next t) = some e) ∧
    (¬s.sel < s.instances.length → execValue v s = .fault .noSuchInstance)

/-! ### CONFIGURE -/

/-- CONFIGURE of the fixed-size algorithms completes whatever ARG0 holds (40_buffering_engine.md R121, R122): the
whole next state. -/
def Obligations.ConfigureFixedSizeCompletes : Prop :=
  ∀ (s : State) (I : Inst), s.inst? = some I → I.fatal = false →
    ∀ (i : Instr) (c : Cfg),
      (i, c) ∈ [(Instr.configureMd2, Cfg.unkeyed .md2 0 16 16), (.configureMd4, Cfg.unkeyed .md4 0 16 64),
        (.configureMd5, Cfg.unkeyed .md5 0 16 64), (.configureSha1, Cfg.unkeyed .sha1 0 20 64),
        (.configureRipemd128, Cfg.unkeyed .ripemd128 0 16 64),
        (.configureRipemd160, Cfg.unkeyed .ripemd160 0 20 64)] →
      exec i s = .next (s.commit { I with cfg := c, configured := true, eng := freshEngine c, err := .ok })

/-- CONFIGURE of the SHA-2 families completes exactly on the digest sizes of 40_buffering_engine.md R122: the
whole next state (R121). -/
def Obligations.ConfigureSha2Completes : Prop :=
  ∀ (s : State) (I : Inst), s.inst? = some I → I.fatal = false → ∀ bits : Nat, I.arg0.toInt = bits →
    (bits = 224 ∨ bits = 256 → ∀ c, c = Cfg.unkeyed .sha2_256 bits (bits / 8) 64 →
      exec .configureSha2_256 s =
        .next (s.commit { I with cfg := c, configured := true, eng := freshEngine c, err := .ok })) ∧
    (bits = 224 ∨ bits = 256 ∨ bits = 384 ∨ bits = 512 → ∀ c, c = Cfg.unkeyed .sha2_512 bits (bits / 8) 128 →
      exec .configureSha2_512 s =
        .next (s.commit { I with cfg := c, configured := true, eng := freshEngine c, err := .ok }))

/-- CONFIGURE of SHA-3 completes on its four sizes, with the rate of each (40_buffering_engine.md R121, R122,
46_sponge.md R310): the whole next state. -/
def Obligations.ConfigureSha3Completes : Prop :=
  ∀ (s : State) (I : Inst), s.inst? = some I → I.fatal = false →
    ∀ bits rate : Nat, (bits, rate) ∈ [(224, 144), (256, 136), (384, 104), (512, 72)] → I.arg0.toInt = bits →
      ∀ c, c = Cfg.unkeyed .sha3 bits (bits / 8) rate →
        exec .configureSha3 s =
          .next (s.commit { I with cfg := c, configured := true, eng := freshEngine c, err := .ok })

/-- CONFIGURE of SHAKE completes on every length that is not negative (40_buffering_engine.md R121, R122): the
whole next state. -/
def Obligations.ConfigureShakeCompletes : Prop :=
  ∀ (s : State) (I : Inst), s.inst? = some I → I.fatal = false → 0 ≤ I.arg0.toInt →
    (∀ c, c = Cfg.unkeyed .shake128 0 I.arg0.toNat 168 → exec .configureShake128 s =
      .next (s.commit { I with cfg := c, configured := true, eng := freshEngine c, err := .ok })) ∧
    (∀ c, c = Cfg.unkeyed .shake256 0 I.arg0.toNat 136 → exec .configureShake256 s =
      .next (s.commit { I with cfg := c, configured := true, eng := freshEngine c, err := .ok }))

/-- CONFIGURE of BLAKE2b completes on digest sizes 1 to 64, key lengths 0 to 64 and a valid key region, and takes
the key bytes from HM (40_buffering_engine.md R121, R122): the whole next state. -/
def Obligations.ConfigureBlake2bCompletes : Prop :=
  ∀ (s : State) (I : Inst), s.inst? = some I → I.fatal = false →
    1 ≤ I.arg0.toInt → I.arg0.toInt ≤ 64 → 0 ≤ I.arg2.toInt → I.arg2.toInt ≤ 64 →
    Valid s.hmSize I.arg1.toInt I.arg2.toInt →
    ∀ c : Cfg,
      c = { alg := some .blake2b, dsz := 0, dlen := I.arg0, blk := 128,
            key := Vector.ofFn fun j =>
              if (j.1 : Int) < I.arg2.toInt then s.hm.read (I.arg1.toNat + j.1) else 0,
            keyLen := BitVec.ofNat 7 I.arg2.toNat } →
      exec .configureBlake2b s =
        .next (s.commit { I with cfg := c, configured := true, eng := freshEngine c, err := .ok })

/-- CONFIGURE with an unsupported code completes with INVALID_CONFIGURATION and no other effect, whatever the
operands (30_encoding.md R92, R97). -/
def Obligations.ConfigureUnsupportedCompletes : Prop :=
  ∀ (s : State) (I : Inst) (alg : Byte), s.inst? = some I → I.fatal = false →
    exec (.configureUnsupported alg) s = .next (s.commit { I with err := .invalidConfiguration })

/-- 60_exceptions.md R388: a CONFIGURE raises INVALID_CONFIGURATION exactly on the listed operands, and then
changes nothing else. -/
def Obligations.RejectedConfigurations : Prop :=
  ∀ (i : Instr) (s : State) (I : Inst), s.inst? = some I → I.fatal = false → i.isConfigure = true →
    (errAfter (exec i s) = some .invalidConfiguration ↔
      rejectedConfiguration i I.arg0.toInt I.arg2.toInt) ∧
    (rejectedConfiguration i I.arg0.toInt I.arg2.toInt →
      exec i s = .next (s.commit { I with err := .invalidConfiguration }))

/-! ### Errors -/

/-- 60_exceptions.md R375: the defensive check of DIGEST and DIGEST0 ends in `fatal` with nothing else changed;
from then on every CMD value only writes INTERNAL_INVARIANT; only hardware reset clears FATAL; and from a state of
the invariant the case is unreachable. -/
def Obligations.FatalIsFinal : Prop :=
  (∀ (s : State) (I : Inst), s.inst? = some I → I.fatal = false → I.configured = true →
    ¬I.eng.off.toNat < I.cfg.blk.toNat →
    (0 ≤ I.arg2.toInt → (I.cfg.dlen.toNat : Int) ≤ I.arg1.toInt - I.arg2.toInt →
      Valid s.hmSize I.arg0.toInt I.arg1.toInt →
      exec .digest s = .next (s.commit { I with fatal := true, err := .internalInvariant })) ∧
    (Valid s.hmSize I.arg0.toInt I.cfg.dlen.toNat →
      exec .digest0 s = .next (s.commit { I with fatal := true, err := .internalInvariant }))) ∧
  (∀ (v : Lane) (s : State) (I : Inst), s.inst? = some I → I.fatal = true →
    execValue v s = .next (s.commit { I with err := .internalInvariant })) ∧
  (∀ (s t : State) (k : Nat) (I : Inst), s.instances[k]? = some I → I.fatal = true → step s = .next t →
    (∀ rest, s.program ≠ .hardwareReset :: rest) → ∃ J, t.instances[k]? = some J ∧ J.fatal = true) ∧
  (∀ s t : State, s.Inv → step s = .next t →
    ∀ J ∈ t.instances, J.fatal = false ∧ J.err ≠ .internalInvariant)

/-- 60_exceptions.md R373: INPUT, DIGEST, DIGEST0 and RESET on an unconfigured instance raise NOT_CONFIGURED and
change nothing else; CONFIGURE never does; CONFIGURED is 0 at hardware reset, is set by a successful CONFIGURE
only, and no command clears it. -/
def Obligations.NotConfigured : Prop :=
  (∀ (i : Instr) (s : State) (I : Inst), s.inst? = some I → I.fatal = false →
    (I.configured = false → i.isConfigure = false →
      exec i s = .next (s.commit { I with err := .notConfigured })) ∧
    (i.isConfigure = true → errAfter (exec i s) ≠ some .notConfigured)) ∧
  (∀ (i : Instr) (s t : State) (I J : Inst), s.inst? = some I → exec i s = .next t → t.inst? = some J →
    (I.configured = true → J.configured = true) ∧
    (I.configured = false → (J.configured = true ↔ i.isConfigure = true ∧ J.err = .ok))) ∧
  (∀ J ∈ State.reset.instances, J.configured = false)

/-- 60_exceptions.md R376: the error that a CMD write reports, in the order of priority, and success where no
condition holds. -/
def Obligations.ErrorPriority : Prop :=
  ∀ (v : Lane) (s : State) (I : Inst), s.inst? = some I →
    (I.fatal = true → errAfter (execValue v s) = some .internalInvariant) ∧
    (I.fatal = false → IllegalValue v → errAfter (execValue v s) = some .illegalCommand) ∧
    (∀ i, I.fatal = false → decode v = .ok i →
      (i.isConfigure = false → I.configured = false → errAfter (execValue v s) = some .notConfigured) ∧
      (i.isConfigure = true →
        (rejectedConfiguration i I.arg0.toInt I.arg2.toInt →
          errAfter (execValue v s) = some .invalidConfiguration) ∧
        (¬rejectedConfiguration i I.arg0.toInt I.arg2.toInt →
          (i = .configureBlake2b → ¬Valid s.hmSize I.arg1.toInt I.arg2.toInt →
            errAfter (execValue v s) = some .invalidArgument) ∧
          ((i = .configureBlake2b → Valid s.hmSize I.arg1.toInt I.arg2.toInt) →
            errAfter (execValue v s) = some .ok))) ∧
      (I.configured = true → i = .input →
        errAfter (execValue v s) =
          if I.arg2.toInt < 0 ∨ I.arg3.toInt < 0 ∨ I.arg1.toInt < I.arg2.toInt + I.arg3.toInt ∨
              ¬(0 ≤ I.arg0.toInt ∧ 0 ≤ I.arg1.toInt ∧ I.arg0.toInt + I.arg1.toInt ≤ (s.hmSize : Nat))
          then some .invalidArgument else some .ok) ∧
      (I.configured = true → i = .digest →
        errAfter (execValue v s) =
          if I.arg2.toInt < 0 ∨ I.arg1.toInt - I.arg2.toInt < I.cfg.dlen.toNat ∨
              ¬(0 ≤ I.arg0.toInt ∧ 0 ≤ I.arg1.toInt ∧ I.arg0.toInt + I.arg1.toInt ≤ (s.hmSize : Nat))
          then some .invalidArgument
          else if I.eng.off.toNat < I.cfg.blk.toNat then some .ok else some .internalInvariant) ∧
      (I.configured = true → i = .digest0 →
        errAfter (execValue v s) =
          if ¬(0 ≤ I.arg0.toInt ∧ I.arg0.toInt + I.cfg.dlen.toNat ≤ (s.hmSize : Nat))
          then some .invalidArgument
          else if I.eng.off.toNat < I.cfg.blk.toNat then some .ok else some .internalInvariant) ∧
      (I.configured = true → i = .reset → errAfter (execValue v s) = some .ok))

/-- 60_exceptions.md R378: a command that reports an error writes STATUS.ERR and nothing else, but for FATAL on
the path of R375. -/
def Obligations.ErrorsPrecise : Prop :=
  ∀ (v : Lane) (s t : State) (I : Inst) (e : ErrCode), s.inst? = some I → execValue v s = .next t →
    errAfter (.next t) = some e → e ≠ .ok →
    t = s.commit { I with err := e } ∨
      (e = .internalInvariant ∧ t = s.commit { I with fatal := true, err := e })

/-! ### INPUT and the message -/

/-- INPUT completes on operands that pass its checks: the loop of 40_buffering_engine.md R124 over the bytes of
the region, LEN grown by 8·n, ERR = OK, nothing else changed; n = 0 leaves the engine as it is, and a fill offset
below BLK stays below BLK. -/
def Obligations.InputCompletes : Prop :=
  ∀ (s : State) (I : Inst), s.inst? = some I → I.fatal = false → I.configured = true →
    0 ≤ I.arg2.toInt → 0 ≤ I.arg3.toInt → I.arg2.toInt + I.arg3.toInt ≤ I.arg1.toInt →
    Valid s.hmSize I.arg0.toInt I.arg1.toInt →
    ∀ E : Engine,
      E = ((List.range I.arg3.toNat).map fun k => s.hm.read (I.arg0.toNat + I.arg2.toNat + k)).foldl
        (fun e b =>
          let e' := { e with buf := e.buf.setIfInBounds e.off.toNat b, off := e.off + 1 }
          if e'.off = I.cfg.blk then
            { transformBlock I.cfg e' (e'.buf.toList.take I.cfg.blk.toNat) with off := 0 }
          else e') I.eng →
      exec .input s = .next (s.commit
        { I with eng := { E with len := I.eng.len + BitVec.ofNat 128 (8 * I.arg3.toNat) }, err := .ok }) ∧
      (I.arg3 = 0 → E = I.eng) ∧
      (I.eng.off.toNat < I.cfg.blk.toNat → E.off.toNat < I.cfg.blk.toNat)

/-- 40_buffering_engine.md R123: INPUT raises INVALID_ARGUMENT exactly on the listed operands, and then nothing
else has changed. -/
def Obligations.InputRejects : Prop :=
  ∀ (s : State) (I : Inst), s.inst? = some I → I.fatal = false → I.configured = true →
    (errAfter (exec .input s) = some .invalidArgument ↔
      I.arg2.toInt < 0 ∨ I.arg3.toInt < 0 ∨ I.arg1.toInt < I.arg2.toInt + I.arg3.toInt ∨
        ¬Valid s.hmSize I.arg0.toInt I.arg1.toInt) ∧
    (errAfter (exec .input s) = some .invalidArgument →
      exec .input s = .next (s.commit { I with err := .invalidArgument }))

/-- 40_buffering_engine.md R127, chunking invariance: two sequences of successful INPUT commands that present the
same bytes hand the same blocks to transformBlock, leave the same engine (so the same BUF, OFF and LEN), and give
the same digest. -/
def Obligations.ChunkingInvariance : Prop :=
  ∀ (s t t' : State) (I : Inst) (as as' : List Operands), s.inst? = some I →
    inputCalls as s = some t → inputCalls as' s = some t' →
    as.flatMap (callBytes s.hm) = as'.flatMap (callBytes s.hm) →
    callsTrace as s = callsTrace as' s ∧
    ∃ J J', t.inst? = some J ∧ t'.inst? = some J' ∧ J.eng = J'.eng ∧ J.cfg = J'.cfg ∧
      digestBytes J.cfg J.eng = digestBytes J'.cfg J'.eng

/-- 00_scope.md R18: the message of an instance. A successful INPUT appends the bytes it read; a successful
CONFIGURE, DIGEST, DIGEST0 or RESET leaves the empty message; a failed command leaves the message as it was; and
the digest is a function of the configuration and the message alone. -/
def Obligations.MessageOfAnInstance : Prop :=
  (∀ (i : Instr) (s t : State) (I : Inst) (M : List Byte), s.inst? = some I → I.holds M →
    exec i s = .next t →
    ∃ J, t.inst? = some J ∧ (J.err ≠ .ok → J.holds M) ∧
      (J.err = .ok → i = .input → J.holds (M ++ inputMessage s I)) ∧
      (J.err = .ok → i ≠ .input → J.holds [])) ∧
  (∀ (I J : Inst) (M : List Byte), I.holds M → J.holds M → I.cfg = J.cfg →
    digestBytes I.cfg I.eng = digestBytes J.cfg J.eng)

/-- 10_state.md R40: what holds of a configured instance and its message M after every command. The offset is
below BLK; LEN is 8·|M| mod 2^128; the blocks handed over since reset are M up to the last |M| − OFF bytes, each of
BLK bytes, and the buffer holds the rest; and for BLAKE2b, PEND says whether a key block or a data block has been
handed over. -/
def Obligations.BufferInvariants : Prop :=
  ∀ (s t : State), s.Inv → step s = .next t → ∀ J ∈ t.instances, J.configured = true →
    (∃ M, J.holds M) ∧ ∀ M, J.holds M →
      J.eng.off.toNat < J.cfg.blk.toNat ∧
      J.eng.len = BitVec.ofNat 128 (8 * M.length) ∧
      (absorbTrace J.cfg (freshEngine J.cfg) M).flatten = M.take (M.length - J.eng.off.toNat) ∧
      (∀ B ∈ absorbTrace J.cfg (freshEngine J.cfg) M, B.length = J.cfg.blk.toNat) ∧
      partialBlock J.eng = M.drop (M.length - J.eng.off.toNat) ∧
      (J.cfg.alg = some .blake2b →
        (J.eng.pend = true ↔
          0 < J.cfg.keyLen.toNat ∨ absorbTrace J.cfg (freshEngine J.cfg) M ≠ []))

/-- An INPUT of n bytes from fill offset OFF makes ⌊(OFF + n) / BLK⌋ transformBlock calls and leaves the offset
(OFF + n) mod BLK; no byte is lost: the blocks handed over, then the partial block, are the old partial block, then
the bytes (70_reset_and_hazards.md R410, 40_buffering_engine.md R124). -/
def Obligations.InputWorkBound : Prop :=
  ∀ (c : Cfg) (e : Engine) (bs : List Byte), e.off.toNat < c.blk.toNat → c.blk.toNat ≤ 168 →
    (absorbTrace c e bs).length = (e.off.toNat + bs.length) / c.blk.toNat ∧
    (inputBytes c e bs).off.toNat = (e.off.toNat + bs.length) % c.blk.toNat ∧
    (absorbTrace c e bs).flatten ++ partialBlock (inputBytes c e bs) = partialBlock e ++ bs

/-! ### DIGEST, DIGEST0 and RESET -/

/-- DIGEST completes on operands that pass its checks (40_buffering_engine.md R125): the digest at base + o,
RESULT the base, Reset(), ERR = OK, nothing else changed. -/
def Obligations.DigestCompletes : Prop :=
  ∀ (s : State) (I : Inst), s.inst? = some I → I.fatal = false → I.configured = true →
    I.eng.off.toNat < I.cfg.blk.toNat → 0 ≤ I.arg2.toInt →
    (I.cfg.dlen.toNat : Int) ≤ I.arg1.toInt - I.arg2.toInt → Valid s.hmSize I.arg0.toInt I.arg1.toInt →
    exec .digest s = .next
      ({ s with hm := s.hm.writeBytes (I.arg0.toNat + I.arg2.toNat) (digestBytes I.cfg I.eng) }.commit
        { I with eng := freshEngine I.cfg, result := I.arg0, err := .ok })

/-- DIGEST0 completes when the DLEN bytes at ARG0 are a valid region (40_buffering_engine.md R128): the digest at
ARG0, RESULT = ARG0, Reset(), ERR = OK, nothing else changed. -/
def Obligations.Digest0Completes : Prop :=
  ∀ (s : State) (I : Inst), s.inst? = some I → I.fatal = false → I.configured = true →
    I.eng.off.toNat < I.cfg.blk.toNat → Valid s.hmSize I.arg0.toInt I.cfg.dlen.toNat →
    exec .digest0 s = .next
      ({ s with hm := s.hm.writeBytes I.arg0.toNat (digestBytes I.cfg I.eng) }.commit
        { I with eng := freshEngine I.cfg, result := I.arg0, err := .ok })

/-- Output-offset isolation (20_memory.md R66, 40_buffering_engine.md R125): after a successful DIGEST or DIGEST0
the DLEN bytes at its output address, which lie in HM, read as the digest, and every other byte reads as before;
after a failed one HM is as before. -/
def Obligations.DigestIsolation : Prop :=
  ∀ (i : Instr) (s t : State) (I : Inst) (addr : Nat), s.inst? = some I → s.hm.wf = true → I.cfg.ok = true →
    (i = .digest ∧ addr = (I.arg0.toInt + I.arg2.toInt).toNat) ∨ (i = .digest0 ∧ addr = I.arg0.toInt.toNat) →
    exec i s = .next t →
    (errAfter (.next t) = some .ok →
      addr + I.cfg.dlen.toNat ≤ (s.hmSize : Nat) ∧
      (∀ k, k < I.cfg.dlen.toNat → t.hm.read (addr + k) = (digestBytes I.cfg I.eng).getD k 0) ∧
      (∀ a, ¬(addr ≤ a ∧ a < addr + I.cfg.dlen.toNat) → t.hm.read a = s.hm.read a)) ∧
    (errAfter (.next t) ≠ some .ok → ∀ a, t.hm.read a = s.hm.read a)

/-- The hook contract (40_buffering_engine.md R131): every block handed to transformBlock has BLK bytes, the
partial block is shorter than BLK, and the digest has exactly DLEN bytes. -/
def Obligations.HookContract : Prop :=
  ∀ (I : Inst) (M bs : List Byte), I.cfg.ok = true → I.holds M →
    (∀ B ∈ absorbTrace I.cfg I.eng bs, B.length = I.cfg.blk.toNat) ∧
    (partialBlock I.eng).length = I.eng.off.toNat ∧ I.eng.off.toNat < I.cfg.blk.toNat ∧
    (digestBytes I.cfg I.eng).length = I.cfg.dlen.toNat

/-- RESET completes on a configured instance (40_buffering_engine.md R129): the engine as Reset() leaves it,
ERR = OK, nothing else changed; and on a freshly reset instance with ERR = OK it changes nothing. -/
def Obligations.ResetCompletes : Prop :=
  ∀ (s : State) (I : Inst), s.inst? = some I → I.fatal = false → I.configured = true →
    exec .reset s = .next (s.commit { I with eng := freshEngine I.cfg, err := .ok }) ∧
    (I.eng = freshEngine I.cfg → I.err = .ok → exec .reset s = .next s)

/-- What Reset() leaves (40_buffering_engine.md R129, R130): an empty buffer and zero counters for every
algorithm, the IV for the length-padded ones (41_md_framework.md R175), zero states for MD2 and the sponge
(42_md2_md4_md5.md R190, 46_sponge.md R313), and for BLAKE2b the parameter word in h[0] and, with a key, the key
block pending with nothing counted (47_blake2b.md R341). -/
def Obligations.FreshEngineState : Prop :=
  ∀ (c : Cfg) (a : Alg), c.alg = some a → c.ok = true →
    (freshEngine c).buf = Vector.replicate 168 0 ∧ (freshEngine c).off = 0 ∧ (freshEngine c).len = 0 ∧
    (freshEngine c).md2X = Vector.replicate 16 0 ∧ (freshEngine c).md2C = Vector.replicate 16 0 ∧
    (freshEngine c).lanes = Vector.replicate 25 0 ∧ (freshEngine c).blakeT = 0 ∧
    (freshEngine c).mdH = mdIV a c.dsz.toNat ∧
    (a ≠ .blake2b → (freshEngine c).blakeH = Vector.replicate 8 0 ∧ (freshEngine c).pend = false ∧
      (freshEngine c).pb = Vector.replicate 128 0) ∧
    (a = .blake2b →
      (∀ j : Fin 8, (freshEngine c).blakeH[j] =
        if j = 0 then
          blakeIV[0] ^^^ (0x01010000 ^^^ BitVec.ofNat 64 (256 * c.keyLen.toNat) ^^^ c.dlen)
        else blakeIV[j]) ∧
      ((freshEngine c).pend = true ↔ 0 < c.keyLen.toNat) ∧
      (∀ j : Fin 128, (freshEngine c).pb[j] = if j.1 < c.keyLen.toNat then c.key.toList.getD j.1 0 else 0))

/-- 70_reset_and_hazards.md R404: after a successful digest every internal field is as just after the CONFIGURE
that set the current configuration; RESULT is the one visible difference. -/
def Obligations.ReuseAfterDigest : Prop :=
  ∀ (i d : Instr) (s t u w : State) (I J K L : Inst),
    i.isConfigure = true → s.inst? = some I → exec i s = .next t → t.inst? = some J → J.err = .ok →
    u.inst? = some K → K.cfg = J.cfg → d = .digest ∨ d = .digest0 → exec d u = .next w →
    w.inst? = some L → L.err = .ok →
    L.cfg = J.cfg ∧ L.eng = J.eng ∧ L.configured = J.configured ∧ L.fatal = J.fatal ∧ L.result = K.arg0

/-! ### Frames -/

/-- The frame of every command (10_state.md R24, R29, R37, 20_memory.md R66, 60_exceptions.md R384): other
instances, HMSIZE, the host's accesses and what it last read are unchanged; the selected instance keeps its ARG
registers, keeps its configuration unless the command is a successful CONFIGURE, keeps RESULT unless it is a
successful digest, keeps FATAL clear unless the command is a digest, and keeps its engine unless the command
succeeds; and every byte of HM is unchanged unless the command is DIGEST or DIGEST0. -/
def Obligations.CommandFrame : Prop :=
  ∀ (i : Instr) (s t : State) (I J : Inst), s.inst? = some I → exec i s = .next t → t.inst? = some J →
    t.hmSize = s.hmSize ∧ t.sel = s.sel ∧ t.program = s.program ∧ t.readData = s.readData ∧
    t.instances.length = s.instances.length ∧
    (∀ k, k ≠ s.sel → t.instances[k]? = s.instances[k]?) ∧
    J.arg0 = I.arg0 ∧ J.arg1 = I.arg1 ∧ J.arg2 = I.arg2 ∧ J.arg3 = I.arg3 ∧
    (i.isConfigure = false ∨ J.err ≠ .ok → J.cfg = I.cfg ∧ J.configured = I.configured) ∧
    ((i ≠ .digest ∧ i ≠ .digest0) ∨ J.err ≠ .ok → J.result = I.result) ∧
    (i ≠ .digest → i ≠ .digest0 → J.fatal = I.fatal) ∧
    (J.err ≠ .ok → J.eng = I.eng) ∧
    (i ≠ .digest → i ≠ .digest0 → ∀ a, t.hm.read a = s.hm.read a)

/-- 10_state.md R26: RESULT is ARG0 of the most recent successful DIGEST or DIGEST0; no other command writes
it. -/
def Obligations.ResultRegister : Prop :=
  ∀ (i : Instr) (s t : State) (I J : Inst), s.inst? = some I → exec i s = .next t → t.inst? = some J →
    ((i = .digest ∨ i = .digest0) ∧ J.err = .ok → J.result = I.arg0) ∧
    (¬((i = .digest ∨ i = .digest0) ∧ J.err = .ok) → J.result = I.result)

/-- A command learns nothing of HM but the bytes of its operand region (20_memory.md R66, 40_buffering_engine.md
R132): on two memories that agree there, it leaves the same instances. -/
def Obligations.ReadsOnlyOperandRegion : Prop :=
  ∀ (i : Instr) (s t : State) (I : Inst) (m : Memory), s.inst? = some I →
    (∀ a, commandReads i I a = true → m.read a = s.hm.read a) → exec i s = .next t →
    ∃ t', exec i { s with hm := m } = .next t' ∧ t'.instances = t.instances

/-- 20_memory.md R73: two commands on different instances commute when neither, where it succeeds, writes a byte
of HM that the other, where it succeeds, reads or writes. The states compared differ only in the model's field
`sel` before it is set alike (notes/assumptions/4.md). -/
def Obligations.InstancesCommute : Prop :=
  ∀ (s : State) (k l : Nat) (i j : Instr) (I J : Inst), s.Inv → k ≠ l →
    s.instances[k]? = some I → s.instances[l]? = some J →
    (errAfter (exec i (s.select k)) = some .ok → errAfter (exec j (s.select l)) = some .ok →
      ∀ a, ¬(commandWrites i I a = true ∧ (commandReads j J a = true ∨ commandWrites j J a = true)) ∧
        ¬(commandWrites j J a = true ∧ commandReads i I a = true)) →
    ∃ t u v : State,
      exec i (s.select k) = .next t ∧ exec j (t.select l) = .next v ∧
      exec j (s.select l) = .next u ∧ exec i (u.select k) = .next (v.select k)

/-! ### The interface -/

/-- STATUS as the host reads it (10_state.md R25, 60_exceptions.md R372): the ERR code in bits 3:0, CONFIGURED in
bit 8, FATAL in bit 9, every other bit 0, and no code above 5. -/
def Obligations.StatusLayout : Prop :=
  ∀ I : Inst,
    I.status.toNat = I.err.code.toNat + 256 * I.configured.toNat + 512 * I.fatal.toNat ∧
    I.err.code.toNat ≤ 5

/-- The access rules of the window (10_state.md R28). An access that is not an aligned 64-bit one has no meaning;
that the model refuses it, under the name `notAligned64`, is the model's (notes/assumptions/7.md). A write to a
read-only or reserved slot is ignored. A read of CMD or of a reserved slot returns 0, which the model's field
`readData` receives (notes/assumptions/4.md). -/
def Obligations.WindowAccessRules : Prop :=
  ∀ (s : State) (rest : List HostAccess) (k : Nat) (offset : BitVec 8) (width : Nat) (v : Lane) (I : Inst),
    s.instances[k]? = some I →
    (width ≠ 8 ∨ offset.toNat % 8 ≠ 0 →
      step { s with program := .regWrite k offset width v :: rest } = .refused .notAligned64 ∧
      step { s with program := .regRead k offset width :: rest } = .refused .notAligned64) ∧
    (width = 8 → offset.toNat % 8 = 0 →
      (0x28 ≤ offset.toNat →
        step { s with program := .regWrite k offset width v :: rest } = .next { s with program := rest }) ∧
      (offset.toNat = 0x00 ∨ 0x50 ≤ offset.toNat →
        step { s with program := .regRead k offset width :: rest } =
          .next { s with program := rest, readData := 0 }))

/-- The slots of the window (10_state.md R22, R24, 20_memory.md R68): a read returns the register of its slot and
has no other effect; a write of an ARG slot reaches that register of that instance and nothing else. -/
def Obligations.RegisterSlots : Prop :=
  ∀ (s : State) (rest : List HostAccess) (k : Nat) (I : Inst) (v : Lane), s.instances[k]? = some I →
    (∀ (offset : BitVec 8) (x : Lane),
      (offset, x) ∈ [((0x08 : BitVec 8), I.arg0), (0x10, I.arg1), (0x18, I.arg2), (0x20, I.arg3),
        (0x28, I.status), (0x30, I.result), (0x38, I.dlenr), (0x40, I.blkr), (0x48, I.algr)] →
      step { s with program := .regRead k offset 8 :: rest } =
        .next { s with program := rest, readData := x }) ∧
    (∀ (offset : BitVec 8) (J : Inst),
      (offset, J) ∈ [((0x08 : BitVec 8), { I with arg0 := v }), (0x10, { I with arg1 := v }),
        (0x18, { I with arg2 := v }), (0x20, { I with arg3 := v })] →
      step { s with program := .regWrite k offset 8 v :: rest } =
        .next { s with program := rest, instances := s.instances.set k J })

/-- DLENR, BLKR and ALGR (10_state.md R27): they read ST.DLEN, ST.BLK and the code of ST.ALG, and all three read 0
on an unconfigured instance of the invariant. -/
def Obligations.ViewRegisters : Prop :=
  ∀ I : Inst,
    I.dlenr = I.cfg.dlen ∧ I.blkr.toNat = I.cfg.blk.toNat ∧
    (∀ a, I.cfg.alg = some a → I.algr.toNat = a.code.toNat ∧ 1 ≤ I.algr.toNat ∧ I.algr.toNat ≤ 12) ∧
    (I.Inv → I.configured = false → I.dlenr = 0 ∧ I.blkr = 0 ∧ I.algr = 0)

/-- The host's own accesses to HM (20_memory.md R60, R71): a stored byte is what a load then returns, every other
byte is unchanged, and an address outside HM faults (notes/assumptions/6.md). -/
def Obligations.HostMemoryAccess : Prop :=
  ∀ (s : State) (rest : List HostAccess) (a : Nat) (v : Byte), s.hm.wf = true →
    (a < (s.hmSize : Nat) →
      (∃ t, step { s with program := .hmStore a v :: rest } = .next t ∧ t.instances = s.instances ∧
        t.program = rest ∧ t.hm.read a = v ∧ ∀ b, b ≠ a → t.hm.read b = s.hm.read b) ∧
      step { s with program := .hmLoad a :: rest } =
        .next { s with program := rest, readData := (s.hm.read a).setWidth 64 }) ∧
    (¬a < (s.hmSize : Nat) →
      step { s with program := .hmStore a v :: rest } = .fault .noSuchMemory ∧
      step { s with program := .hmLoad a :: rest } = .fault .noSuchMemory)

/-- The address map (10_state.md R22, 20_memory.md R69): the windows of the instances are disjoint and lie 0x100
bytes apart from REGBASE, for every REGBASE. -/
def Obligations.WindowAddresses : Prop :=
  ∀ (base k : Nat) (offset : BitVec 8) (addr : Nat),
    windowOf base addr = some (k, offset) ↔ addr = base + 0x100 * k + offset.toNat

/-! ### Words and bytes -/

/-- The rotations of 00_scope.md R10, by 0 too, and the loads and stores of R11. -/
def Obligations.RotationsAndByteOrder : Prop :=
  (∀ w : Word, rotl w 0 = w ∧ rotr w 0 = w) ∧ (∀ v : Lane, rotl v 0 = v ∧ rotr v 0 = v) ∧
  (∀ (w : Word) (k : Nat), 0 < k → k < 32 →
    rotl w k = (w <<< k) ||| (w >>> (32 - k)) ∧ rotr w k = rotl w (32 - k)) ∧
  (∀ (v : Lane) (k : Nat), 0 < k → k < 64 →
    rotl v k = (v <<< k) ||| (v >>> (64 - k)) ∧ rotr v k = rotl v (64 - k)) ∧
  (∀ (b : List Byte) (i : Nat), i + 4 ≤ b.length →
    (le32 b i).toNat = (b.getD i 0).toNat + 2 ^ 8 * (b.getD (i + 1) 0).toNat +
      2 ^ 16 * (b.getD (i + 2) 0).toNat + 2 ^ 24 * (b.getD (i + 3) 0).toNat ∧
    (be32 b i).toNat = 2 ^ 24 * (b.getD i 0).toNat + 2 ^ 16 * (b.getD (i + 1) 0).toNat +
      2 ^ 8 * (b.getD (i + 2) 0).toNat + (b.getD (i + 3) 0).toNat) ∧
  (∀ (b : List Byte) (i : Nat), i + 8 ≤ b.length →
    (le64 b i).toNat = ((List.range 8).map fun j => 2 ^ (8 * j) * (b.getD (i + j) 0).toNat).sum ∧
    (be64 b i).toNat = ((List.range 8).map fun j => 2 ^ (8 * (7 - j)) * (b.getD (i + j) 0).toNat).sum) ∧
  (∀ w : Word, (putLe32 w).length = 4 ∧ le32 (putLe32 w) 0 = w ∧ (putBe32 w).length = 4 ∧
    be32 (putBe32 w) 0 = w) ∧
  (∀ v : Lane, (putLe64 v).length = 8 ∧ le64 (putLe64 v) 0 = v ∧ (putBe64 v).length = 8 ∧
    be64 (putBe64 v) 0 = v) ∧
  (∀ c : Counter, (putBe 16 c.toNat).length = 16 ∧
    ((List.range 16).map fun j => 2 ^ (8 * (15 - j)) * ((putBe 16 c.toNat).getD j 0).toNat).sum = c.toNat)

/-! ### Merkle–Damgård algorithms -/

/-- 41_md_framework.md R177: how many blocks finalization compresses, with their sizes; what they contain; and
the 64-byte message of SHA-256. -/
def Obligations.PaddingBoundaries : Prop :=
  (∀ (a : Alg) (len : Counter) (P : List Byte), mdLengthField a = 8 → P.length < 64 →
    (P.length ≤ 55 → (mdFinalBlocks a 64 len P).length = 1) ∧
    (56 ≤ P.length → (mdFinalBlocks a 64 len P).length = 2) ∧
    ∀ B ∈ mdFinalBlocks a 64 len P, B.length = 64) ∧
  (∀ (len : Counter) (P : List Byte), P.length < 128 →
    (P.length ≤ 111 → (mdFinalBlocks .sha2_512 128 len P).length = 1) ∧
    (112 ≤ P.length → (mdFinalBlocks .sha2_512 128 len P).length = 2) ∧
    ∀ B ∈ mdFinalBlocks .sha2_512 128 len P, B.length = 128) ∧
  (∀ (a : Alg) (blk : Nat) (len : Counter), blk = 64 ∧ mdLengthField a = 8 ∨ blk = 128 ∧ a = .sha2_512 →
    mdFinalBlocks a blk len [] = [[0x80] ++ zeros (blk - 1 - mdLengthField a) ++ mdLengthBytes a len]) ∧
  (∀ (M : List Byte) (c : Cfg), M.length = 64 → c = Cfg.unkeyed .sha2_256 256 32 64 →
    (absorbTrace c (freshEngine c) M).length = 1 ∧
    (mdFinalBlocks .sha2_256 64 (inputBytes c (freshEngine c) M).len
      (partialBlock (inputBytes c (freshEngine c) M))).length = 1)

/-- The digest of MD4, MD5, SHA-1, SHA-2 and RIPEMD is the hash of the whole message: pad it, cut it into blocks,
fold the compression function over them from the IV, serialize and truncate (41_md_framework.md R171 to R175). -/
def Obligations.MdDigestIsTheHash : Prop :=
  ∀ (I : Inst) (M : List Byte) (a : Alg), I.cfg.ok = true → I.cfg.alg = some a → I.holds M →
    a ∈ [Alg.md4, .md5, .sha1, .sha2_256, .sha2_512, .ripemd128, .ripemd160] →
    digestBytes I.cfg I.eng = mdHash a I.cfg M

/-- 43_sha1_sha2.md R221, R225 and R230: the three message schedules. -/
def Obligations.MessageSchedules : Prop :=
  ∀ B : List Byte,
    ((sha1Schedule B).length = 80 ∧ ∀ t, t < 80 → (sha1Schedule B).getD t 0 =
      if t < 16 then be32 B (4 * t)
      else rotl ((sha1Schedule B).getD (t - 3) 0 ^^^ (sha1Schedule B).getD (t - 8) 0 ^^^
        (sha1Schedule B).getD (t - 14) 0 ^^^ (sha1Schedule B).getD (t - 16) 0) 1) ∧
    ((sha256Schedule B).length = 64 ∧ ∀ t, t < 64 → (sha256Schedule B).getD t 0 =
      if t < 16 then be32 B (4 * t)
      else sha256Sigma1 ((sha256Schedule B).getD (t - 2) 0) + (sha256Schedule B).getD (t - 7) 0 +
        sha256Sigma0 ((sha256Schedule B).getD (t - 15) 0) + (sha256Schedule B).getD (t - 16) 0) ∧
    ((sha512Schedule B).length = 80 ∧ ∀ t, t < 80 → (sha512Schedule B).getD t 0 =
      if t < 16 then be64 B (8 * t)
      else sha512Sigma1 ((sha512Schedule B).getD (t - 2) 0) + (sha512Schedule B).getD (t - 7) 0 +
        sha512Sigma0 ((sha512Schedule B).getD (t - 15) 0) + (sha512Schedule B).getD (t - 16) 0)

/-- 42_md2_md4_md5.md R191: the MD2 checksum update, byte by byte, and over any sequence of blocks from the zero
checksum the same as RFC 1319's, which carries L from block to block: the checksums agree, and the carried L is
C[15]. R194: the S-box is the table, given here one row a number, and a permutation of 0..255. -/
def Obligations.Md2ChecksumAndSBox : Prop :=
  (∀ (C : Vector Byte 16) (B : List Byte), B.length = 16 → ∀ j : Fin 16,
    (md2Checksum C B)[j] = C[j] ^^^ md2Sub (B.getD j.1 0 ^^^
      (if j.1 = 0 then C[15] else (md2Checksum C B).toList.getD (j.1 - 1) 0))) ∧
  (∀ Bs : List (List Byte), (∀ B ∈ Bs, B.length = 16) →
    Bs.foldl md2CarriedBlock (Vector.replicate 16 0, 0) =
      (Bs.foldl md2Checksum (Vector.replicate 16 0), (Bs.foldl md2Checksum (Vector.replicate 16 0))[15])) ∧
  (∀ r k : Fin 16, (md2Sub (BitVec.ofNat 8 (16 * r.1 + k.1))).toNat = (([
    0x292E43C9A2D87C013D3654A1ECF00613, 0x62A705F3C0C7738C98932BD9BC4C82CA,
    0x1E9B573CFDD4E01667426F188A17E512, 0xBE4EC4D6DA9EDE49A0FBF58EBB2FEE7A,
    0xA968799115B2073F94C210890B225F21, 0x807F5D9A5A903227353ECCE7BFF79703,
    0xFF1930B348A5B5D1D75E922AAC56AAC6, 0x4FB838D296A47DB676FC6BE29C7404F1,
    0x459D705964718720865BCF65E62DA802, 0x1B6025ADAEB0B9F61C46616934407E0F,
    0x5547A323DD51AF3AC35CF9CEBAC5EA26, 0x2C530D6E85288409D3DFCDF441814D52,
    0x6ADC37C86CC1ABFA24E17B080CBDB14A, 0x7888958BE363E86DE9CBD5FE3B001D39,
    0xF2EFB70E6658D0E4A67772F8EB754B0A, 0x314450B48FED1F1ADB998D339F118314] : List Nat).getD r.1 0) /
      256 ^ (15 - k.1) % 256) ∧
  Function.Bijective md2Sub

/-- The MD2 digest is the hash of the whole message: pad it, compress its blocks, then compress their checksum
(42_md2_md4_md5.md R191 to R195). -/
def Obligations.Md2DigestIsTheHash : Prop :=
  ∀ (I : Inst) (M : List Byte), I.cfg.ok = true → I.cfg.alg = some .md2 → I.holds M →
    digestBytes I.cfg I.eng = md2Hash M

/-! ### Keccak and the sponge -/

/-- 45_keccak_permutation.md R280: where a lane lies, the byte view of the lanes, the lane view of the bytes, and
that the two views lose nothing. -/
def Obligations.LaneByteView : Prop :=
  ∀ A : Lanes,
    (∀ (x y : Fin 5) (i : Fin 25), i.1 = x.1 + 5 * y.1 → laneAt A x.1 y.1 = A[i]) ∧
    (bytesOfLanes A).length = 200 ∧
    (∀ (i : Fin 25) (j : Fin 8),
      (bytesOfLanes A).getD (8 * i.1 + j.1) 0 = A[i].extractLsb' (8 * j.1) 8) ∧
    (∀ (S : List Byte) (i : Fin 25), (lanesOfBytes S)[i] = le64 S (8 * i.1)) ∧
    lanesOfBytes (bytesOfLanes A) = A

/-- 45_keccak_permutation.md R281 to R285: θ, ρ, π, χ and ι, lane by lane, the column parities C and their effect
D being those of R281, the rotations of ρ and the constants of ι those of the tables of R282 and R285, written
out, the latter one row of four constants a number. -/
def Obligations.KeccakSteps : Prop :=
  ∀ (A : Lanes) (x y : Fin 5) (rnd : Fin 24) (C D : Nat → Lane),
    (∀ k, C k = laneAt A k 0 ^^^ laneAt A k 1 ^^^ laneAt A k 2 ^^^ laneAt A k 3 ^^^ laneAt A k 4) →
    (∀ k, D k = C ((k + 4) % 5) ^^^ rotl (C ((k + 1) % 5)) 1) →
    laneAt (theta A) x.1 y.1 = laneAt A x.1 y.1 ^^^ D x.1 ∧
    laneAt (rho A) x.1 y.1 = rotl (laneAt A x.1 y.1) (([0, 1, 62, 28, 27, 36, 44, 6, 55, 20, 3, 10, 43,
      25, 39, 41, 45, 15, 21, 8, 18, 2, 61, 56, 14] : List Nat).getD (x.1 + 5 * y.1) 0) ∧
    laneAt (piStep A) y.1 ((2 * x.1 + 3 * y.1) % 5) = laneAt A x.1 y.1 ∧
    laneAt (piStep A) x.1 y.1 = laneAt A ((x.1 + 3 * y.1) % 5) x.1 ∧
    laneAt (chi A) x.1 y.1 =
      laneAt A x.1 y.1 ^^^ (~~~(laneAt A ((x.1 + 1) % 5) y.1) &&& laneAt A ((x.1 + 2) % 5) y.1) ∧
    laneAt (iota rnd.1 A) x.1 y.1 =
      if x = 0 ∧ y = 0 then laneAt A 0 0 ^^^ BitVec.ofNat 64 (([
        0x00000000000000010000000000008082800000000000808A8000000080008000,
        0x000000000000808B000000008000000180000000800080818000000000008009,
        0x000000000000008A00000000000000880000000080008009000000008000000A,
        0x000000008000808B800000000000008B80000000000080898000000000008003,
        0x80000000000080028000000000000080000000000000800A800000008000000A,
        0x8000000080008081800000000000808000000000800000018000000080008008] : List Nat).getD
          (rnd.1 / 4) 0 / 2 ^ (64 * (3 - rnd.1 % 4)))
      else laneAt A x.1 y.1

/-- KeccakF is a bijection on the 1600-bit states (45_keccak_permutation.md R286). -/
def Obligations.KeccakIsABijection : Prop := Function.Bijective keccakF

/-- 46_sponge.md R311: absorbing XORs the block's lanes into the first RATE/8 lanes, leaves the capacity lanes as
they are, and permutes. -/
def Obligations.AbsorbByLanes : Prop :=
  ∀ (A : Lanes) (B : List Byte) (rate : Nat), B.length = rate → rate % 8 = 0 → rate ≤ 200 →
    spongeAbsorb A B =
      keccakF (Vector.ofFn fun i => if i.1 < rate / 8 then A[i] ^^^ le64 B (8 * i.1) else A[i])

/-- 46_sponge.md R314: the padded block, byte by byte, in both cases. -/
def Obligations.SpongePadding : Prop :=
  ∀ (a : Alg) (ds : Byte) (rate : Nat) (P : List Byte),
    (a, ds) ∈ [(Alg.sha3, (0x06 : Byte)), (.shake128, 0x1F), (.shake256, 0x1F)] → P.length < rate →
    (spongePad (domainByte a) rate P).length = rate ∧
    (∀ k, k < P.length → (spongePad (domainByte a) rate P).getD k 0 = P.getD k 0) ∧
    (P.length = rate - 1 → (spongePad (domainByte a) rate P).getD P.length 0 = ds ||| 0x80) ∧
    (P.length ≠ rate - 1 →
      (spongePad (domainByte a) rate P).getD P.length 0 = ds ∧
      (spongePad (domainByte a) rate P).getD (rate - 1) 0 = 0x80 ∧
      ∀ k, P.length < k → k < rate - 1 → (spongePad (domainByte a) rate P).getD k 0 = 0)

/-- 46_sponge.md R315: squeezing N bytes gives N bytes, byte k being byte k mod RATE of the state after k / RATE
further permutations. -/
def Obligations.SqueezeBytes : Prop :=
  ∀ (rate : Nat) (A : Lanes) (n : Nat), 0 < rate → rate ≤ 200 →
    (squeeze rate A n).length = n ∧
    ∀ k, k < n → (squeeze rate A n).getD k 0 = (bytesOfLanes (keccakF^[k / rate] A)).getD (k % rate) 0

/-- 46_sponge.md R317: SHA-3 squeezes once, so its digest is the first DLEN bytes of the state after the final
absorb. -/
def Obligations.Sha3SqueezesOnce : Prop :=
  ∀ (I : Inst) (M : List Byte), I.cfg.ok = true → I.cfg.alg = some .sha3 → I.holds M →
    I.cfg.dlen.toNat ≤ I.cfg.blk.toNat ∧
    digestBytes I.cfg I.eng =
      (bytesOfLanes (spongeAbsorb I.eng.lanes (spongePad 0x06 I.cfg.blk.toNat (partialBlock I.eng)))).take
        I.cfg.dlen.toNat

/-- 46_sponge.md R318, the SHAKE prefix property: for one message and one variant, the output of length N is the
first N bytes of the output of any length N' ≥ N, and the state after the final absorb is the same. -/
def Obligations.ShakePrefix : Prop :=
  ∀ (a : Alg) (blk n n' : Nat) (M : List Byte) (I J : Inst), (a, blk) ∈ [(Alg.shake128, 168), (.shake256, 136)] →
    n ≤ n' → n' < 2 ^ 63 → I.cfg = Cfg.unkeyed a 0 n blk → J.cfg = Cfg.unkeyed a 0 n' blk →
    I.holds M → J.holds M →
    digestBytes I.cfg I.eng = (digestBytes J.cfg J.eng).take n ∧
    spongeAbsorb I.eng.lanes (spongePad 0x1F blk (partialBlock I.eng)) =
      spongeAbsorb J.eng.lanes (spongePad 0x1F blk (partialBlock J.eng))

/-- The digest of SHA-3 and SHAKE is the sponge output on the whole message: pad it, absorb its blocks from the
zero state, squeeze (46_sponge.md R311 to R316). -/
def Obligations.SpongeDigestIsTheHash : Prop :=
  ∀ (I : Inst) (M : List Byte) (a : Alg), I.cfg.ok = true → I.cfg.alg = some a → I.holds M →
    a ∈ [Alg.sha3, .shake128, .shake256] → digestBytes I.cfg I.eng = spongeHash a I.cfg M

/-! ### BLAKE2b -/

/-- The byte counter at the final compression (47_blake2b.md R348): 128 for the key block, if there is one, plus
the length of the message, mod 2^128. -/
def Obligations.BlakeFinalCounter : Prop :=
  ∀ (I : Inst) (M : List Byte), I.cfg.ok = true → I.cfg.alg = some .blake2b → I.holds M →
    (blakeFinalState I.eng (partialBlock I.eng)).blakeT =
      BitVec.ofNat 128 ((if 0 < I.cfg.keyLen.toNat then 128 else 0) + M.length)

/-- The BLAKE2b digest is the hash of the whole message: the key block and the message cut into blocks, each
compressed with the count of the bytes up to its end, the last one zero-padded and flagged (47_blake2b.md R341 to
R348). -/
def Obligations.BlakeDigestIsTheHash : Prop :=
  ∀ (I : Inst) (M : List Byte), I.cfg.ok = true → I.cfg.alg = some .blake2b → I.holds M →
    digestBytes I.cfg I.eng = blakeHash I.cfg M

/-- Field use (10_state.md R32, R36). Fields an algorithm does not use stay 0: MD2 leaves H, A and the BLAKE2b
state alone, the length-padded algorithms X, C, A and the BLAKE2b state, the sponge X, C, H and the BLAKE2b state, and
BLAKE2b X, C, H and A. A 32-bit algorithm uses bits 31:0 of its first n words of H, and every other bit and word
of H stays 0. -/
def Obligations.FieldUse : Prop :=
  ∀ (I : Inst) (M : List Byte) (a : Alg), I.cfg.ok = true → I.cfg.alg = some a → I.holds M →
    (a ≠ .md2 → I.eng.md2X = Vector.replicate 16 0 ∧ I.eng.md2C = Vector.replicate 16 0) ∧
    (a ≠ .sha3 → a ≠ .shake128 → a ≠ .shake256 → I.eng.lanes = Vector.replicate 25 0) ∧
    (a ∈ [Alg.md2, .sha3, .shake128, .shake256, .blake2b] → I.eng.mdH = Vector.replicate 8 0) ∧
    (a ≠ .blake2b → I.eng.blakeH = Vector.replicate 8 0 ∧ I.eng.blakeT = 0 ∧ I.eng.pend = false ∧
      I.eng.pb = Vector.replicate 128 0 ∧ I.cfg.keyLen = 0) ∧
    (∀ n, (a, n) ∈ [(Alg.md4, 4), (.md5, 4), (.ripemd128, 4), (.sha1, 5), (.ripemd160, 5), (.sha2_256, 8)] →
      ∀ j : Fin 8, I.eng.mdH[j].toNat < 2 ^ 32 ∧ (n ≤ j.1 → I.eng.mdH[j] = 0))

end Statements
end

