-- ==== Sys2Proof/Laws/Decode.lean ====
section
/-! SUPPORT. The fields of a command value, as numbers, and the bytes of the bus. -/

namespace Sys2Proof

theorem toNat_opField (v : Lane) : (opField v).toNat = v.toNat % 256 := by
  simp [opField, BitVec.extractLsb'_toNat]

theorem toNat_algField (v : Lane) : (algField v).toNat = v.toNat / 256 % 256 := by
  simp [algField, BitVec.extractLsb'_toNat, Nat.shiftRight_eq_div_pow]

theorem toNat_rsvField (v : Lane) : (rsvField v).toNat = v.toNat / 65536 := by
  have h := v.isLt
  simp only [rsvField, BitVec.extractLsb'_toNat, Nat.shiftRight_eq_div_pow]
  omega

theorem toNat_commandWord (op alg : Byte) : (commandWord op alg).toNat = 256 * alg.toNat + op.toNat := by
  have h1 := op.isLt
  have h2 := alg.isLt
  unfold commandWord
  simp only [BitVec.toNat_append, Nat.shiftLeft_eq]
  rw [← Nat.shiftLeft_eq, ← Nat.shiftLeft_eq]
  rw [← Nat.shiftLeft_add_eq_or_of_lt h1, ← Nat.shiftLeft_add_eq_or_of_lt h2]
  simp [Nat.shiftLeft_eq]
  omega

@[simp] theorem opField_commandWord (op alg : Byte) : opField (commandWord op alg) = op := by
  apply BitVec.eq_of_toNat_eq
  have := op.isLt
  rw [toNat_opField, toNat_commandWord]
  omega

@[simp] theorem algField_commandWord (op alg : Byte) : algField (commandWord op alg) = alg := by
  apply BitVec.eq_of_toNat_eq
  have := op.isLt
  have := alg.isLt
  rw [toNat_algField, toNat_commandWord]
  omega

@[simp] theorem rsvField_commandWord (op alg : Byte) : rsvField (commandWord op alg) = 0 := by
  apply BitVec.eq_of_toNat_eq
  have := op.isLt
  have := alg.isLt
  rw [toNat_rsvField, toNat_commandWord]
  simp
  omega

/-- A value is its three fields. -/
theorem commandWord_of_fields {v : Lane} (h : rsvField v = 0) : v = commandWord (opField v) (algField v) := by
  apply BitVec.eq_of_toNat_eq
  have h' := congrArg BitVec.toNat h
  rw [toNat_rsvField] at h'
  rw [toNat_commandWord, toNat_opField, toNat_algField]
  simp at h'
  omega

@[simp] theorem length_putLe (n v : Nat) : (putLe n v).length = n := by
  induction n generalizing v with
  | zero => rfl
  | succ n ih => simp [putLe, ih]

/-- A number is its bytes. -/
theorem leNat_putLe (n v : Nat) (h : v < 256 ^ n) : leNat (putLe n v) = v := by
  induction n generalizing v with
  | zero => simp [putLe, leNat] at *; omega
  | succ n ih =>
    simp only [putLe, leNat]
    rw [ih (v / 256) (by rw [Nat.pow_succ] at h; omega)]
    simp
    omega

/-- What the codes of CONFIGURE decode to: an unsupported code is kept. -/
theorem decodeConfigure_unsupported {b : Byte} (h : unsupportedCode b = true) :
    decodeConfigure b = .configureUnsupported b := by
  revert b; decide


end Sys2Proof
end

