-- ==== Sys2Proof/Laws/State.lean ====
section
/-! SUPPORT. One lemma per field per update of the state, each true by `rfl`. -/

namespace Sys2Proof.Machine

section commit
variable (s : State) (I : Inst)
@[simp] theorem State.commit_hm : (s.commit I).hm = s.hm := rfl
@[simp] theorem State.commit_hmSize : (s.commit I).hmSize = s.hmSize := rfl
@[simp] theorem State.commit_sel : (s.commit I).sel = s.sel := rfl
@[simp] theorem State.commit_program : (s.commit I).program = s.program := rfl
@[simp] theorem State.commit_readData : (s.commit I).readData = s.readData := rfl
@[simp] theorem State.commit_instances : (s.commit I).instances = s.instances.set s.sel I := rfl
end commit

section select
variable (s : State) (k : Nat)
@[simp] theorem State.select_hm : (s.select k).hm = s.hm := rfl
@[simp] theorem State.select_hmSize : (s.select k).hmSize = s.hmSize := rfl
@[simp] theorem State.select_sel : (s.select k).sel = k := rfl
@[simp] theorem State.select_program : (s.select k).program = s.program := rfl
@[simp] theorem State.select_readData : (s.select k).readData = s.readData := rfl
@[simp] theorem State.select_instances : (s.select k).instances = s.instances := rfl
@[simp] theorem State.select_inst? : (s.select k).inst? = s.instances[k]? := rfl
end select

section withErr
variable (I : Inst) (e : ErrCode)
@[simp] theorem Inst.withErr_arg0 : (I.withErr e).arg0 = I.arg0 := rfl
@[simp] theorem Inst.withErr_arg1 : (I.withErr e).arg1 = I.arg1 := rfl
@[simp] theorem Inst.withErr_arg2 : (I.withErr e).arg2 = I.arg2 := rfl
@[simp] theorem Inst.withErr_arg3 : (I.withErr e).arg3 = I.arg3 := rfl
@[simp] theorem Inst.withErr_err : (I.withErr e).err = e := rfl
@[simp] theorem Inst.withErr_configured : (I.withErr e).configured = I.configured := rfl
@[simp] theorem Inst.withErr_fatal : (I.withErr e).fatal = I.fatal := rfl
@[simp] theorem Inst.withErr_result : (I.withErr e).result = I.result := rfl
@[simp] theorem Inst.withErr_cfg : (I.withErr e).cfg = I.cfg := rfl
@[simp] theorem Inst.withErr_eng : (I.withErr e).eng = I.eng := rfl
end withErr

section resetEngine
variable (I : Inst)
@[simp] theorem Inst.resetEngine_arg0 : I.resetEngine.arg0 = I.arg0 := rfl
@[simp] theorem Inst.resetEngine_arg1 : I.resetEngine.arg1 = I.arg1 := rfl
@[simp] theorem Inst.resetEngine_arg2 : I.resetEngine.arg2 = I.arg2 := rfl
@[simp] theorem Inst.resetEngine_arg3 : I.resetEngine.arg3 = I.arg3 := rfl
@[simp] theorem Inst.resetEngine_err : I.resetEngine.err = I.err := rfl
@[simp] theorem Inst.resetEngine_configured : I.resetEngine.configured = I.configured := rfl
@[simp] theorem Inst.resetEngine_fatal : I.resetEngine.fatal = I.fatal := rfl
@[simp] theorem Inst.resetEngine_result : I.resetEngine.result = I.result := rfl
@[simp] theorem Inst.resetEngine_cfg : I.resetEngine.cfg = I.cfg := rfl
@[simp] theorem Inst.resetEngine_eng : I.resetEngine.eng = freshEngine I.cfg := rfl
end resetEngine

section construct
variable (I : Inst) (c : Cfg)
@[simp] theorem Inst.construct_arg0 : (I.construct c).arg0 = I.arg0 := rfl
@[simp] theorem Inst.construct_arg1 : (I.construct c).arg1 = I.arg1 := rfl
@[simp] theorem Inst.construct_arg2 : (I.construct c).arg2 = I.arg2 := rfl
@[simp] theorem Inst.construct_arg3 : (I.construct c).arg3 = I.arg3 := rfl
@[simp] theorem Inst.construct_err : (I.construct c).err = .ok := rfl
@[simp] theorem Inst.construct_configured : (I.construct c).configured = true := rfl
@[simp] theorem Inst.construct_fatal : (I.construct c).fatal = I.fatal := rfl
@[simp] theorem Inst.construct_result : (I.construct c).result = I.result := rfl
@[simp] theorem Inst.construct_cfg : (I.construct c).cfg = c := rfl
@[simp] theorem Inst.construct_eng : (I.construct c).eng = freshEngine c := rfl
end construct

section powerOn
variable (n : Fin (2 ^ 63 + 1)) (k : Nat) (m : Memory)
@[simp] theorem State.powerOn_hm : (State.powerOn n k m).hm = m := rfl
@[simp] theorem State.powerOn_hmSize : (State.powerOn n k m).hmSize = n := rfl
@[simp] theorem State.powerOn_instances : (State.powerOn n k m).instances = List.replicate k Inst.zero := rfl
@[simp] theorem State.powerOn_sel : (State.powerOn n k m).sel = 0 := rfl
@[simp] theorem State.powerOn_program : (State.powerOn n k m).program = [] := rfl
@[simp] theorem State.powerOn_readData : (State.powerOn n k m).readData = 0 := rfl
end powerOn

section finishDigest
variable (s : State) (I : Inst) (a : Nat)
@[simp] theorem finishDigest_hm :
    (finishDigest s I a).hm = s.hm.writeBytes a (digestBytes I.cfg I.eng) := rfl
@[simp] theorem finishDigest_hmSize : (finishDigest s I a).hmSize = s.hmSize := rfl
@[simp] theorem finishDigest_sel : (finishDigest s I a).sel = s.sel := rfl
@[simp] theorem finishDigest_program : (finishDigest s I a).program = s.program := rfl
@[simp] theorem finishDigest_readData : (finishDigest s I a).readData = s.readData := rfl
@[simp] theorem finishDigest_instances :
    (finishDigest s I a).instances = s.instances.set s.sel { I.resetEngine with result := I.arg0, err := .ok } :=
  rfl
end finishDigest

section storeByte
variable (e : Engine) (b : Byte)
@[simp] theorem storeByte_buf : (storeByte e b).buf = e.buf.setIfInBounds e.off.toNat b := rfl
@[simp] theorem storeByte_off : (storeByte e b).off = e.off + 1 := rfl
@[simp] theorem storeByte_len : (storeByte e b).len = e.len := rfl
@[simp] theorem storeByte_mdH : (storeByte e b).mdH = e.mdH := rfl
@[simp] theorem storeByte_md2X : (storeByte e b).md2X = e.md2X := rfl
@[simp] theorem storeByte_md2C : (storeByte e b).md2C = e.md2C := rfl
@[simp] theorem storeByte_lanes : (storeByte e b).lanes = e.lanes := rfl
@[simp] theorem storeByte_blakeH : (storeByte e b).blakeH = e.blakeH := rfl
@[simp] theorem storeByte_blakeT : (storeByte e b).blakeT = e.blakeT := rfl
@[simp] theorem storeByte_pend : (storeByte e b).pend = e.pend := rfl
@[simp] theorem storeByte_pb : (storeByte e b).pb = e.pb := rfl
end storeByte

end Sys2Proof.Machine
end

