-- ==== Sys2Proof/Laws/Memory.lean ====
section
/-! SUPPORT. The laws of host memory: read after write, the frame of a write, and the canonical form. -/

namespace Sys2Proof.Machine

theorem Memory.read_write (m : Memory) (hm : m.wf = true) (a b : Nat) (v : Byte) :
    (m.write a v).read b = if b = a then v else m.read b := by
  induction m with
  | nil =>
    by_cases hv : v = Memory.fill <;> by_cases hb : b = a <;> simp [Memory.write, Memory.read, hv, hb]
  | cons c m ih =>
    obtain ⟨k, w⟩ := c
    simp only [Memory.wf, Bool.and_eq_true, decide_eq_true_eq, List.all_eq_true] at hm
    obtain ⟨⟨hw, hall⟩, hwf⟩ := hm
    have hlow : ∀ x, x ≤ k → Memory.read m x = Memory.fill := by
      intro x hx
      clear ih hwf hw
      induction m with
      | nil => rfl
      | cons d m ih2 =>
        have h1 := hall d (by simp)
        have hne : x ≠ d.1 := by omega
        obtain ⟨d1, d2⟩ := d
        simp only [Memory.read]
        rw [if_neg hne]
        exact ih2 fun y hy => hall y (by simp [hy])
    simp only [Memory.write]
    split
    · rename_i hlt
      by_cases hv : v = Memory.fill
      · rw [if_pos hv]
        by_cases hb : b = a
        · subst hb
          have : b ≠ k := by omega
          simp [Memory.read, this, hlow b (by omega), hv]
        · simp [hb]
      · rw [if_neg hv]
        by_cases hb : b = a <;> simp [Memory.read, hb]
    · split
      · rename_i _ heq
        subst heq
        by_cases hv : v = Memory.fill
        · rw [if_pos hv]
          by_cases hb : b = a
          · subst hb; simp [hlow b (by omega), hv]
          · simp [Memory.read, hb]
        · rw [if_neg hv]
          by_cases hb : b = a <;> simp [Memory.read, hb]
      · rename_i h1 h2
        by_cases hb : b = k
        · subst hb
          have : b ≠ a := fun h => h2 h.symm
          simp [Memory.read, this]
        · simp [Memory.read, hb, ih hwf]

@[simp] theorem Memory.read_write_same (m : Memory) (hm : m.wf = true) (a : Nat) (v : Byte) :
    (m.write a v).read a = v := by simp [Memory.read_write m hm]

theorem Memory.read_write_other (m : Memory) (hm : m.wf = true) {a b : Nat} (h : b ≠ a) (v : Byte) :
    (m.write a v).read b = m.read b := by simp [Memory.read_write m hm, h]

/-- Where the entries of a written memory come from. -/
theorem Memory.mem_write {m : Memory} {a : Nat} {v : Byte} {c : Host.Cell} (h : c ∈ m.write a v) :
    c = (a, v) ∨ c ∈ m := by
  induction m with
  | nil => simp only [Memory.write] at h; split at h <;> simp_all
  | cons d m ih =>
    obtain ⟨k, w⟩ := d
    simp only [Memory.write] at h
    split at h
    · split at h
      · exact .inr h
      · simpa using h
    · split at h
      · split at h
        · exact .inr (List.mem_cons_of_mem _ h)
        · rcases List.mem_cons.mp h with h | h
          · exact .inl h
          · exact .inr (List.mem_cons_of_mem _ h)
      · rcases List.mem_cons.mp h with h | h
        · exact .inr (h ▸ List.mem_cons_self)
        · rcases ih h with h | h
          · exact .inl h
          · exact .inr (List.mem_cons_of_mem _ h)

/-- A write keeps the canonical form. -/
theorem Memory.wf_write (m : Memory) (a : Nat) (v : Byte) (hm : m.wf = true) : (m.write a v).wf = true := by
  induction m with
  | nil => by_cases hv : v = Memory.fill <;> simp [Memory.write, Memory.wf, hv]
  | cons d m ih =>
    obtain ⟨k, w⟩ := d
    have hm' := hm
    simp only [Memory.wf, Bool.and_eq_true, decide_eq_true_eq, List.all_eq_true] at hm'
    obtain ⟨⟨hw, hall⟩, hwf⟩ := hm'
    simp only [Memory.write]
    split
    · rename_i hlt
      split
      · exact hm
      · rename_i hv
        simp only [Memory.wf, Bool.and_eq_true, decide_eq_true_eq, List.all_eq_true]
        refine ⟨⟨hv, ?_⟩, ⟨hw, hall⟩, hwf⟩
        intro x hx
        rcases List.mem_cons.mp hx with h | h
        · subst h; exact hlt
        · exact Nat.lt_trans hlt (hall x h)
    · split
      · rename_i _ heq
        subst heq
        split
        · exact hwf
        · rename_i hv
          simp only [Memory.wf, Bool.and_eq_true, decide_eq_true_eq, List.all_eq_true]
          exact ⟨⟨hv, hall⟩, hwf⟩
      · simp only [Memory.wf, Bool.and_eq_true, decide_eq_true_eq, List.all_eq_true]
        refine ⟨⟨hw, ?_⟩, ih hwf⟩
        intro x hx
        rcases Memory.mem_write hx with h | h
        · subst h; show k < a; omega
        · exact hall x h

/-- A write inside HM keeps every listed address inside HM. -/
theorem Memory.below_write (m : Memory) (n a : Nat) (v : Byte) (hm : m.below n = true) (ha : a < n) :
    (m.write a v).below n = true := by
  simp only [Memory.below, List.all_eq_true, decide_eq_true_eq] at *
  intro c hc
  rcases Memory.mem_write hc with h | h
  · subst h; exact ha
  · exact hm c h

theorem Memory.wf_writeBytes (bs : List Byte) : ∀ (m : Memory) (a : Nat), m.wf = true →
    (m.writeBytes a bs).wf = true := by
  induction bs with
  | nil => intro m a hm; exact hm
  | cons b bs ih => intro m a hm; exact ih _ _ (Memory.wf_write m a b hm)

theorem Memory.below_writeBytes (n : Nat) (bs : List Byte) : ∀ (m : Memory) (a : Nat), m.below n = true →
    a + bs.length ≤ n → (m.writeBytes a bs).below n = true := by
  induction bs with
  | nil => intro m a hm _; exact hm
  | cons b bs ih =>
    intro m a hm ha
    simp only [List.length_cons] at ha
    exact ih _ _ (Memory.below_write m n a b hm (by omega)) (by omega)

/-- What a byte reads as after a run of writes. -/
theorem Memory.read_writeBytes (bs : List Byte) : ∀ (m : Memory) (a b : Nat), m.wf = true →
    (m.writeBytes a bs).read b = if a ≤ b ∧ b < a + bs.length then bs.getD (b - a) 0 else m.read b := by
  induction bs with
  | nil => intro m a b _; simp [Memory.writeBytes]
  | cons v bs ih =>
    intro m a b hm
    rw [Memory.writeBytes, ih _ _ _ (Memory.wf_write m a v hm), Memory.read_write m hm]
    simp only [List.length_cons]
    by_cases h : b = a
    · subst h; simp
    · by_cases h2 : a + 1 ≤ b ∧ b < a + 1 + bs.length
      · have h3 : a ≤ b ∧ b < a + (bs.length + 1) := by omega
        obtain ⟨k, rfl⟩ : ∃ k, b = a + 1 + k := ⟨b - (a + 1), by omega⟩
        rw [if_pos h2, if_pos h3]
        have e1 : a + 1 + k - (a + 1) = k := by omega
        have e2 : a + 1 + k - a = k + 1 := by omega
        rw [e1, e2]; rfl
      · have h3 : ¬(a ≤ b ∧ b < a + (bs.length + 1)) := by omega
        rw [if_neg h2, if_neg h3, if_neg h]

@[simp] theorem Memory.length_readBytes (m : Memory) (a n : Nat) : (m.readBytes a n).length = n := by
  induction n generalizing a with
  | zero => rfl
  | succ n ih => simp [Memory.readBytes, ih]

theorem Memory.getD_readBytes (m : Memory) (a n k : Nat) (h : k < n) (d : Byte) :
    (m.readBytes a n).getD k d = m.read (a + k) := by
  induction n generalizing a k with
  | zero => omega
  | succ n ih =>
    cases k with
    | zero => rfl
    | succ k =>
      have := ih (a + 1) k (by omega)
      simp only [Memory.readBytes, List.getD_cons_succ]
      rw [this]; congr 1; omega

/-- The bytes read depend on those addresses only. -/
theorem Memory.readBytes_congr (m m' : Memory) (a n : Nat)
    (h : ∀ k, k < n → m.read (a + k) = m'.read (a + k)) : m.readBytes a n = m'.readBytes a n := by
  induction n generalizing a with
  | zero => rfl
  | succ n ih =>
    simp only [Memory.readBytes]
    rw [show m.read a = m'.read a from h 0 (by omega)]
    rw [ih (a + 1) fun k hk => by
      have := h (k + 1) (by omega)
      rw [show a + 1 + k = a + (k + 1) by omega]; exact this]

theorem Memory.read_eq_fill_of_below {m : Memory} {k : Nat} (h : ∀ c ∈ m, k < c.1) : ∀ x, x ≤ k →
    m.read x = Memory.fill := by
  induction m with
  | nil => intro x _; rfl
  | cons d m ih =>
    intro x hx
    have h1 := h d (by simp)
    obtain ⟨d1, d2⟩ := d
    have hne : x ≠ d1 := by
      have : k < d1 := h1
      omega
    simp only [Memory.read, if_neg hne]
    exact ih (fun c hc => h c (by simp [hc])) x hx

/-- Canonical memories that read alike everywhere are equal. -/
theorem Memory.ext_read : ∀ (m m' : Memory), m.wf = true → m'.wf = true → (∀ a, m.read a = m'.read a) →
    m = m' := by
  have hhead : ∀ (k : Nat) (w : Byte) (m : Memory), Memory.wf ((k, w) :: m) = true →
      w ≠ Memory.fill ∧ (∀ c ∈ m, k < c.1) ∧ Memory.wf m = true := by
    intro k w m h
    simp only [Memory.wf, Bool.and_eq_true, decide_eq_true_eq, List.all_eq_true] at h
    exact ⟨h.1.1, h.1.2, h.2⟩
  intro m
  induction m with
  | nil =>
    intro m' _ h' hr
    cases m' with
    | nil => rfl
    | cons d m' =>
      obtain ⟨k, w⟩ := d
      obtain ⟨hw, _, _⟩ := hhead k w m' h'
      have := hr k
      simp [Memory.read] at this
      exact absurd this.symm hw
  | cons d m ih =>
    intro m' h h' hr
    obtain ⟨k, w⟩ := d
    obtain ⟨hw, hall, hwf⟩ := hhead k w m h
    cases m' with
    | nil =>
      have := hr k
      simp [Memory.read] at this
      exact absurd this hw
    | cons d' m' =>
      obtain ⟨k', w'⟩ := d'
      obtain ⟨hw', hall', hwf'⟩ := hhead k' w' m' h'
      have hk : k = k' := by
        rcases Nat.lt_trichotomy k k' with hlt | heq | hlt
        · have h1 := hr k
          have hne : k ≠ k' := by omega
          simp only [Memory.read, if_neg hne] at h1
          rw [Memory.read_eq_fill_of_below hall' k (by omega)] at h1
          simp at h1
          exact absurd h1 hw
        · exact heq
        · have h1 := hr k'
          have hne : k' ≠ k := by omega
          simp only [Memory.read, if_neg hne] at h1
          rw [Memory.read_eq_fill_of_below hall k' (by omega)] at h1
          simp at h1
          exact absurd h1.symm hw'
      subst hk
      have hww : w = w' := by simpa [Memory.read] using hr k
      subst hww
      congr 1
      apply ih m' hwf hwf'
      intro a
      by_cases ha : a = k
      · subst ha
        rw [Memory.read_eq_fill_of_below hall a (by omega), Memory.read_eq_fill_of_below hall' a (by omega)]
      · have := hr a
        simpa [Memory.read, ha] using this

/-- Every contents of HM is some canonical list of bytes inside it. -/
theorem Memory.exists_contents (f : Nat → Byte) : ∀ n : Nat, ∃ m : Memory,
    m.wf = true ∧ m.below n = true ∧ ∀ a, a < n → m.read a = f a
  | 0 => ⟨[], rfl, rfl, fun _ h => absurd h (Nat.not_lt_zero _)⟩
  | n + 1 => by
    obtain ⟨m, hw, hb, hr⟩ := Memory.exists_contents f n
    have hb' : m.below (n + 1) = true := by
      simp only [Memory.below, List.all_eq_true, decide_eq_true_eq] at hb ⊢
      exact fun c hc => Nat.lt_succ_of_lt (hb c hc)
    refine ⟨m.write n (f n), Memory.wf_write m n _ hw, Memory.below_write m _ n _ hb' (Nat.lt_succ_self n), ?_⟩
    intro a ha
    rw [Memory.read_write m hw]
    split
    · rename_i h; rw [h]
    · exact hr a (by omega)

theorem Memory.wf_reset : State.reset.hm.wf = true := rfl

end Sys2Proof.Machine
end

