-- ==== Sys2Proof/Laws/Ops.lean ====
section
/-! SUPPORT. What the shared operations can do: the selected instance, the checks before a command, and one lemma
that says everything a command can do. -/

namespace Sys2Proof.Machine

/-! ### The selected instance -/

theorem State.sel_lt {s : State} {I : Inst} (h : s.inst? = some I) : s.sel < s.instances.length :=
  (List.getElem?_eq_some_iff.mp h).1

theorem State.inst?_of_lt {s : State} (h : s.sel < s.instances.length) : ∃ I, s.inst? = some I :=
  ⟨s.instances[s.sel], List.getElem?_eq_getElem h⟩

@[simp] theorem State.inst?_commit {s : State} {I : Inst} (h : s.inst? = some I) (J : Inst) :
    (s.commit J).inst? = some J := by
  simp [State.inst?, State.commit, State.sel_lt h]

theorem State.commit_other (s : State) (J : Inst) {k : Nat} (hk : k ≠ s.sel) :
    (s.commit J).instances[k]? = s.instances[k]? := by
  simp [State.commit, List.getElem?_set_ne (Ne.symm hk)]

@[simp] theorem State.length_commit (s : State) (J : Inst) :
    (s.commit J).instances.length = s.instances.length := by simp [State.commit]

/-- Committing the instance that is there changes nothing. -/
theorem State.commit_self {s : State} {I : Inst} (h : s.inst? = some I) : s.commit I = s := by
  obtain ⟨hlt, hget⟩ := List.getElem?_eq_some_iff.mp h
  simp only [State.commit]
  rw [show s.instances.set s.sel I = s.instances by rw [← hget]; exact List.set_getElem_self hlt]

@[simp] theorem State.commit_commit (s : State) (I J : Inst) : (s.commit I).commit J = s.commit J := by
  simp [State.commit]

theorem State.mem_commit {s : State} {I J : Inst} (h : J ∈ (s.commit I).instances) :
    J = I ∨ J ∈ s.instances := by
  rcases List.mem_or_eq_of_mem_set h with h | h
  · exact .inr h
  · exact .inl h

@[simp] theorem errAfter_commit {s : State} {I : Inst} (h : s.inst? = some I) (J : Inst) :
    errAfter (.next (s.commit J)) = some J.err := by
  simp [errAfter, State.inst?_commit h]

@[simp] theorem errAfter_raise {s : State} {I : Inst} (h : s.inst? = some I) (e : ErrCode) :
    errAfter (raise e I s) = some e := by
  simp [raise, h]

@[simp] theorem errAfter_raiseFatal {s : State} {I : Inst} (h : s.inst? = some I) :
    errAfter (raiseFatal I s) = some .internalInvariant := by
  simp [raiseFatal, h]

@[simp] theorem finishDigest_inst? {s : State} {I : Inst} (h : s.inst? = some I) (a : Nat) :
    (finishDigest s I a).inst? = some { I.resetEngine with result := I.arg0, err := .ok } :=
  State.inst?_commit (s := { s with hm := s.hm.writeBytes a (digestBytes I.cfg I.eng) }) h _

@[simp] theorem errAfter_finishDigest {s : State} {I : Inst} (h : s.inst? = some I) (a : Nat) :
    errAfter (.next (finishDigest s I a)) = some .ok := by
  simp [errAfter, finishDigest_inst? h]

/-! ### The checks before a command -/

theorem issue_none {s : State} (h : s.inst? = none) (body) : issue s body = .fault .noSuchInstance := by
  simp [issue, h]

theorem issue_some {s : State} {I : Inst} (h : s.inst? = some I) (body) :
    issue s body = if I.fatal then raise .internalInvariant I s else body I := by
  simp [issue, h]

theorem issue_run {s : State} {I : Inst} (h : s.inst? = some I) (hf : I.fatal = false) (body) :
    issue s body = body I := by
  simp [issue, h, hf]

theorem issue_fatal {s : State} {I : Inst} (h : s.inst? = some I) (hf : I.fatal = true) (body) :
    issue s body = raise .internalInvariant I s := by
  simp [issue, h, hf]

theorem issueConfigured_run {s : State} {I : Inst} (h : s.inst? = some I) (hf : I.fatal = false)
    (hc : I.configured = true) (body) : issueConfigured s body = body I := by
  simp [issueConfigured, issue, h, hf, hc]

theorem issueConfigured_unconfigured {s : State} {I : Inst} (h : s.inst? = some I) (hf : I.fatal = false)
    (hc : I.configured = false) (body) : issueConfigured s body = raise .notConfigured I s := by
  simp [issueConfigured, issue, h, hf, hc]

/-! ### Regions and arguments -/

theorem validRegion_iff (n : Nat) (base size : Int) : validRegion n base size = true ↔ Valid n base size := by
  simp [validRegion, Valid, and_assoc]

theorem inputArgsOk_iff (n : Nat) (base size o k : Int) :
    inputArgsOk n base size o k = true ↔ 0 ≤ o ∧ 0 ≤ k ∧ o + k ≤ size ∧ Valid n base size := by
  simp [inputArgsOk, validRegion_iff, and_assoc]

theorem digestArgsOk_iff (n dlen : Nat) (base size o : Int) :
    digestArgsOk n dlen base size o = true ↔ 0 ≤ o ∧ (dlen : Int) ≤ size - o ∧ Valid n base size := by
  simp [digestArgsOk, validRegion_iff, and_assoc]

/-! ### Everything a command can do -/

/-- What a digest command to `addr` requires beyond its operand checks: where its bytes go. -/
theorem digestTo_cases (s : State) (I : Inst) (size o : Int) :
    (¬(0 ≤ o ∧ (I.cfg.dlen.toNat : Int) ≤ size - o ∧ Valid s.hmSize I.arg0.toInt size) ∧
      digestTo s I size o = raise .invalidArgument I s) ∨
    ((0 ≤ o ∧ (I.cfg.dlen.toNat : Int) ≤ size - o ∧ Valid s.hmSize I.arg0.toInt size) ∧
      ¬I.eng.off.toNat < I.cfg.blk.toNat ∧ digestTo s I size o = raiseFatal I s) ∨
    ((0 ≤ o ∧ (I.cfg.dlen.toNat : Int) ≤ size - o ∧ Valid s.hmSize I.arg0.toInt size) ∧
      I.eng.off.toNat < I.cfg.blk.toNat ∧
      digestTo s I size o = .next (finishDigest s I (I.arg0.toInt + o).toNat)) := by
  unfold digestTo
  cases hc : digestArgsOk s.hmSize I.cfg.dlen.toNat I.argInt0 size o with
  | false =>
    refine .inl ⟨fun h => ?_, by simp⟩
    exact absurd ((digestArgsOk_iff ..).mpr h) (by simpa [Inst.argInt0] using hc)
  | true =>
    have h := (digestArgsOk_iff ..).mp hc
    by_cases ho : I.eng.off.toNat < I.cfg.blk.toNat
    · exact .inr (.inr ⟨h, ho, by simp [ho, Inst.argInt0]⟩)
    · exact .inr (.inl ⟨h, ho, by simp [ho]⟩)

/-- What CONFIGURE can do. -/
theorem configure_cases (alg : Alg) (s : State) {I : Inst} (h : s.inst? = some I) :
    (I.fatal = true ∧ configure alg s = raise .internalInvariant I s) ∨
    (I.fatal = false ∧ paramsOf alg I.arg0.toInt I.arg2.toInt = none ∧
      configure alg s = raise .invalidConfiguration I s) ∨
    (∃ p, I.fatal = false ∧ paramsOf alg I.arg0.toInt I.arg2.toInt = some p ∧ alg = .blake2b ∧
      ¬Valid s.hmSize I.arg1.toInt I.arg2.toInt ∧ configure alg s = raise .invalidArgument I s) ∨
    (∃ p, I.fatal = false ∧ paramsOf alg I.arg0.toInt I.arg2.toInt = some p ∧
      (alg = .blake2b → Valid s.hmSize I.arg1.toInt I.arg2.toInt) ∧
      configure alg s = .next (s.commit (I.construct (cfgOf alg p (keyBytes alg s I))))) := by
  unfold configure
  rw [issue_some h]
  cases hf : I.fatal with
  | true => exact .inl ⟨rfl, rfl⟩
  | false =>
    refine .inr ?_
    cases hp : paramsOf alg I.arg0.toInt I.arg2.toInt with
    | none =>
      refine .inl ⟨rfl, rfl, ?_⟩
      simp [Inst.argInt0, Inst.argInt2, hp]
    | some p =>
      refine .inr ?_
      by_cases hb : alg = .blake2b
      · cases hv : validRegion s.hmSize I.arg1.toInt I.arg2.toInt with
        | false =>
          refine .inl ⟨p, rfl, rfl, hb, fun h => ?_, ?_⟩
          · rw [(validRegion_iff ..).mpr h] at hv
            cases hv
          · subst hb
            simp [Inst.argInt0, Inst.argInt1, Inst.argInt2, hp, hv]
        | true =>
          refine .inr ⟨p, rfl, rfl, fun _ => (validRegion_iff ..).mp hv, ?_⟩
          simp [Inst.argInt0, Inst.argInt1, Inst.argInt2, hp, hv]
      · refine .inr ⟨p, rfl, rfl, fun h => absurd h hb, ?_⟩
        simp [Inst.argInt0, Inst.argInt2, hp, hb]

/-- The family a CONFIGURE command names, none for the other commands and the unsupported codes. -/
def configureAlg : Instr → Option Alg
  | .configureMd2 => some .md2
  | .configureMd4 => some .md4
  | .configureMd5 => some .md5
  | .configureSha1 => some .sha1
  | .configureSha2_256 => some .sha2_256
  | .configureSha2_512 => some .sha2_512
  | .configureSha3 => some .sha3
  | .configureShake128 => some .shake128
  | .configureShake256 => some .shake256
  | .configureRipemd128 => some .ripemd128
  | .configureRipemd160 => some .ripemd160
  | .configureBlake2b => some .blake2b
  | .configureUnsupported _ | .input | .digest | .digest0 | .reset => none

/-- A CONFIGURE of a supported family is `configure` of that family. -/
theorem exec_configure {i : Instr} {a : Alg} (h : configureAlg i = some a) (s : State) :
    exec i s = configure a s := by
  cases i <;> simp [configureAlg] at h <;> subst h <;> rfl

theorem isConfigure_of_alg {i : Instr} {a : Alg} (h : configureAlg i = some a) : i.isConfigure = true := by
  cases i <;> simp [configureAlg] at h <;> rfl

/-- A configuring command names a family or is unsupported. -/
theorem isConfigure_cases {i : Instr} (h : i.isConfigure = true) :
    (∃ a, configureAlg i = some a) ∨ ∃ b, i = .configureUnsupported b := by
  cases i <;> simp [configureAlg, Instr.isConfigure] at h ⊢

/-- What the digest commands can do once they have begun, `addr` being where the digest goes. -/
theorem exec_digest_cases (s : State) {I : Inst} (h : s.inst? = some I) {d : Instr} {size o : Int}
    (hd : d = .digest ∧ size = I.arg1.toInt ∧ o = I.arg2.toInt ∨
      d = .digest0 ∧ size = I.cfg.dlen.toNat ∧ o = 0) :
    (I.fatal = true ∧ exec d s = raise .internalInvariant I s) ∨
    (I.fatal = false ∧ I.configured = false ∧ exec d s = raise .notConfigured I s) ∨
    (I.fatal = false ∧ I.configured = true ∧ exec d s = digestTo s I size o) := by
  have he : exec d s = issueConfigured s fun I => if d = .digest then digestTo s I I.argInt1 I.argInt2
      else digestTo s I I.cfg.dlen.toNat 0 := by
    rcases hd with ⟨rfl, -⟩ | ⟨rfl, -⟩
    · rfl
    · simp [exec, execDigest0]
  cases hf : I.fatal with
  | true => exact .inl ⟨rfl, by rw [he, issueConfigured, issue_fatal h hf]⟩
  | false =>
    cases hc : I.configured with
    | false => exact .inr (.inl ⟨rfl, rfl, by rw [he, issueConfigured_unconfigured h hf hc]⟩)
    | true =>
      refine .inr (.inr ⟨rfl, rfl, ?_⟩)
      rw [he, issueConfigured_run h hf hc]
      rcases hd with ⟨rfl, rfl, rfl⟩ | ⟨rfl, rfl, rfl⟩
      · rfl
      · simp

/-- What INPUT can do on a configured instance. -/
theorem exec_input_cases (s : State) {I : Inst} (h : s.inst? = some I) (hf : I.fatal = false)
    (hc : I.configured = true) :
    ((0 ≤ I.arg2.toInt ∧ 0 ≤ I.arg3.toInt ∧ I.arg2.toInt + I.arg3.toInt ≤ I.arg1.toInt ∧
        Valid s.hmSize I.arg0.toInt I.arg1.toInt) ∧
      exec .input s =
        .next (s.commit { I with eng := inputBytes I.cfg I.eng (inputMessage s I), err := .ok })) ∨
    (¬(0 ≤ I.arg2.toInt ∧ 0 ≤ I.arg3.toInt ∧ I.arg2.toInt + I.arg3.toInt ≤ I.arg1.toInt ∧
        Valid s.hmSize I.arg0.toInt I.arg1.toInt) ∧ exec .input s = raise .invalidArgument I s) := by
  rw [← inputArgsOk_iff]
  have e : exec .input s = if inputArgsOk s.hmSize I.arg0.toInt I.arg1.toInt I.arg2.toInt I.arg3.toInt then
        .next (s.commit { I with eng := inputBytes I.cfg I.eng (inputMessage s I), err := .ok })
      else raise .invalidArgument I s := issueConfigured_run h hf hc _
  cases ha : inputArgsOk s.hmSize I.arg0.toInt I.arg1.toInt I.arg2.toInt I.arg3.toInt with
  | true => exact .inl ⟨rfl, by rw [e, if_pos ha]⟩
  | false => exact .inr ⟨by simp, by rw [e, ha]; rfl⟩

/-- Everything a command can do: an error with nothing else changed, the fatal path, a configuration, an INPUT, a
digest, or a RESET, each with its conditions. -/
inductive Effect (s : State) (I : Inst) : Instr → State → Prop
  | raised (i : Instr) (e : ErrCode) (he : e ≠ .ok) (hi : e = .internalInvariant → I.fatal = true) :
      Effect s I i (s.commit (I.withErr e))
  | fatal (i : Instr) (hi : i = .digest ∨ i = .digest0) (hf : I.fatal = false) (hc : I.configured = true)
      (ho : ¬I.eng.off.toNat < I.cfg.blk.toNat) :
      Effect s I i (s.commit { I with fatal := true, err := .internalInvariant })
  | configured (i : Instr) (a : Alg) (p : Params) (hi : configureAlg i = some a) (hf : I.fatal = false)
      (hp : paramsOf a I.arg0.toInt I.arg2.toInt = some p)
      (hv : a = .blake2b → Valid s.hmSize I.arg1.toInt I.arg2.toInt) :
      Effect s I i (s.commit (I.construct (cfgOf a p (keyBytes a s I))))
  | input (hf : I.fatal = false) (hc : I.configured = true)
      (ha : 0 ≤ I.arg2.toInt ∧ 0 ≤ I.arg3.toInt ∧ I.arg2.toInt + I.arg3.toInt ≤ I.arg1.toInt ∧
        Valid s.hmSize I.arg0.toInt I.arg1.toInt) :
      Effect s I .input (s.commit { I with eng := inputBytes I.cfg I.eng (inputMessage s I), err := .ok })
  | digest (i : Instr) (addr : Nat) (hf : I.fatal = false) (hc : I.configured = true)
      (hi : i = .digest ∧ addr = (I.arg0.toInt + I.arg2.toInt).toNat ∧ 0 ≤ I.arg0.toInt ∧ 0 ≤ I.arg2.toInt ∨
        i = .digest0 ∧ addr = I.arg0.toInt.toNat ∧ 0 ≤ I.arg0.toInt)
      (hr : addr + I.cfg.dlen.toNat ≤ (s.hmSize : Nat)) (ho : I.eng.off.toNat < I.cfg.blk.toNat) :
      Effect s I i (finishDigest s I addr)
  | reset (hf : I.fatal = false) (hc : I.configured = true) :
      Effect s I .reset (s.commit { I.resetEngine with err := .ok })

/-- On an instance that exists every command has a next state, by one of these effects. -/
theorem exec_effect (i : Instr) {s : State} {I : Inst} (h : s.inst? = some I) :
    ∃ t, exec i s = .next t ∧ Effect s I i t := by
  have hdig : ∀ d size o, (d = .digest ∧ size = I.arg1.toInt ∧ o = I.arg2.toInt ∨
      d = .digest0 ∧ size = (I.cfg.dlen.toNat : Int) ∧ o = 0) → ∃ t, exec d s = .next t ∧ Effect s I d t := by
    intro d size o hd
    rcases exec_digest_cases s h hd with ⟨hf, e⟩ | ⟨hf, hc, e⟩ | ⟨hf, hc, e⟩
    · exact ⟨_, e, .raised d .internalInvariant (by decide) fun _ => hf⟩
    · exact ⟨_, e, .raised d .notConfigured (by decide) (by simp)⟩
    · rcases digestTo_cases s I size o with ⟨-, e'⟩ | ⟨-, ho, e'⟩ | ⟨hr, ho, e'⟩
      · exact ⟨_, e.trans e', .raised d .invalidArgument (by decide) (by simp)⟩
      · refine ⟨_, e.trans e', .fatal d ?_ hf hc ho⟩
        rcases hd with ⟨rfl, -⟩ | ⟨rfl, -⟩ <;> simp
      · obtain ⟨h0, h1, h2, h3, h4⟩ := hr
        refine ⟨_, e.trans e', .digest d _ hf hc ?_ (by omega) ho⟩
        rcases hd with ⟨rfl, rfl, rfl⟩ | ⟨rfl, rfl, rfl⟩
        · exact .inl ⟨rfl, rfl, h2, h0⟩
        · exact .inr ⟨rfl, by simp, h2⟩
  have hcfg : ∀ a, configureAlg i = some a → ∃ t, exec i s = .next t ∧ Effect s I i t := by
    intro a ha
    rw [exec_configure ha]
    rcases configure_cases a s h with ⟨hf, e⟩ | ⟨-, -, e⟩ | ⟨p, -, -, -, -, e⟩ | ⟨p, hf, hp, hv, e⟩
    · exact ⟨_, e, .raised i .internalInvariant (by decide) fun _ => hf⟩
    · exact ⟨_, e, .raised i .invalidConfiguration (by decide) (by simp)⟩
    · exact ⟨_, e, .raised i .invalidArgument (by decide) (by simp)⟩
    · exact ⟨_, e, .configured i a p ha hf hp hv⟩
  cases i with
  | configureUnsupported b =>
    have e : exec (.configureUnsupported b) s = issue s fun I => raise .invalidConfiguration I s := rfl
    obtain hf | hf := Bool.eq_false_or_eq_true I.fatal
    · exact ⟨_, by rw [e, issue_fatal h hf]; rfl, .raised _ .internalInvariant (by decide) fun _ => hf⟩
    · exact ⟨_, by rw [e, issue_run h hf]; rfl, .raised _ .invalidConfiguration (by decide) (by simp)⟩
  | input =>
    have e : exec .input s = issueConfigured s fun I =>
        if inputArgsOk s.hmSize I.argInt0 I.argInt1 I.argInt2 I.argInt3 then
          .next (s.commit { I with eng := inputBytes I.cfg I.eng (inputMessage s I), err := .ok })
        else raise .invalidArgument I s := rfl
    obtain hf | hf := Bool.eq_false_or_eq_true I.fatal
    · exact ⟨_, by rw [e, issueConfigured, issue_fatal h hf]; rfl, .raised _ .internalInvariant (by decide) fun _ => hf⟩
    obtain hc | hc := Bool.eq_false_or_eq_true I.configured
    · rcases exec_input_cases s h hf hc with ⟨ha, e'⟩ | ⟨-, e'⟩
      · exact ⟨_, e', .input hf hc ha⟩
      · exact ⟨_, e', .raised _ .invalidArgument (by decide) (by simp)⟩
    · exact ⟨_, by rw [e, issueConfigured_unconfigured h hf hc]; rfl, .raised _ .notConfigured (by decide) (by simp)⟩
  | digest => exact hdig _ _ _ (.inl ⟨rfl, rfl, rfl⟩)
  | digest0 => exact hdig _ _ _ (.inr ⟨rfl, rfl, rfl⟩)
  | reset =>
    have e : exec .reset s = issueConfigured s fun I => .next (s.commit { I.resetEngine with err := .ok }) := rfl
    rw [e]
    obtain hf | hf := Bool.eq_false_or_eq_true I.fatal
    · exact ⟨_, by rw [issueConfigured, issue_fatal h hf]; rfl, .raised _ .internalInvariant (by decide) fun _ => hf⟩
    obtain hc | hc := Bool.eq_false_or_eq_true I.configured
    · exact ⟨_, by rw [issueConfigured_run h hf hc], .reset hf hc⟩
    · exact ⟨_, by rw [issueConfigured_unconfigured h hf hc]; rfl, .raised _ .notConfigured (by decide) (by simp)⟩
  | _ => exact hcfg _ rfl

/-- The effect of a command that has a next state. -/
theorem effect_of_exec {i : Instr} {s t : State} {I : Inst} (h : s.inst? = some I) (he : exec i s = .next t) :
    Effect s I i t := by
  obtain ⟨t', e, ef⟩ := exec_effect i h
  cases e.symm.trans he
  exact ef

theorem exec_none {s : State} (h : s.inst? = none) (i : Instr) : exec i s = .fault .noSuchInstance := by
  cases i <;> simp [exec, execConfigureMd2, execConfigureMd4, execConfigureMd5, execConfigureSha1,
    execConfigureSha2_256, execConfigureSha2_512, execConfigureSha3, execConfigureShake128,
    execConfigureShake256, execConfigureRipemd128, execConfigureRipemd160, execConfigureBlake2b,
    execConfigureUnsupported, execInput, execDigest, execDigest0, execReset, configure, issueConfigured, issue, h]

end Sys2Proof.Machine
end

