-- ==== Sys2Proof/Laws/Engine.lean ====
section
/-! SUPPORT. The engine: what the block hook leaves alone, and how the loop of INPUT composes. -/

namespace Sys2Proof.Machine

/-- The buffer, its fill offset and the length counter of an engine replaced. -/
def Engine.setBuffer (e : Engine) (buf : Vector Byte 168) (off : BitVec 8) (len : Counter) : Engine :=
  { e with buf := buf, off := off, len := len }

@[simp] theorem Engine.setBuffer_self (e : Engine) : e.setBuffer e.buf e.off e.len = e := rfl

/-- transformBlock neither reads nor writes the buffer, the offset or the length counter. -/
theorem transformBlock_setBuffer (c : Cfg) (e : Engine) (B : List Byte) (buf off len) :
    transformBlock c (e.setBuffer buf off len) B = (transformBlock c e B).setBuffer buf off len := by
  unfold transformBlock
  cases c.alg with
  | none => rfl
  | some a =>
    cases a with
    | blake2b =>
      obtain ⟨_, _, _, _, _, _, _, _, _, pend, _⟩ := e
      cases pend <;> rfl
    | _ => rfl

@[simp] theorem transformBlock_buf (c : Cfg) (e : Engine) (B : List Byte) :
    (transformBlock c e B).buf = e.buf := by
  have h := congrArg Engine.buf (transformBlock_setBuffer c e B e.buf e.off e.len)
  exact h

@[simp] theorem transformBlock_off (c : Cfg) (e : Engine) (B : List Byte) :
    (transformBlock c e B).off = e.off := by
  have h := congrArg Engine.off (transformBlock_setBuffer c e B e.buf e.off e.len)
  exact h

@[simp] theorem transformBlock_len (c : Cfg) (e : Engine) (B : List Byte) :
    (transformBlock c e B).len = e.len := by
  have h := congrArg Engine.len (transformBlock_setBuffer c e B e.buf e.off e.len)
  exact h

@[simp] theorem absorbByte_len (c : Cfg) (e : Engine) (b : Byte) : (absorbByte c e b).len = e.len := by
  unfold absorbByte drainBuffer
  split <;> simp

theorem transformBlock_setLen (c : Cfg) (e : Engine) (B : List Byte) (x : Counter) :
    transformBlock c { e with len := x } B = { transformBlock c e B with len := x } := by
  have h := transformBlock_setBuffer c e B e.buf e.off x
  simp only [Engine.setBuffer] at h
  rw [h]
  congr 1 <;> simp

/-- The loop does not read the length counter. -/
theorem absorbByte_setLen (c : Cfg) (e : Engine) (b : Byte) (x : Counter) :
    absorbByte c { e with len := x } b = { absorbByte c e b with len := x } := by
  have h := transformBlock_setLen c (storeByte e b) (bufferBlock c (storeByte e b)) x
  unfold absorbByte drainBuffer
  rw [show storeByte { e with len := x } b = { storeByte e b with len := x } from rfl]
  by_cases hc : (storeByte e b).off = c.blk
  · rw [if_pos (show ({ storeByte e b with len := x } : Engine).off = c.blk from hc), if_pos hc]
    exact congrArg (fun e : Engine => { e with off := 0 }) h
  · rw [if_neg (show ¬({ storeByte e b with len := x } : Engine).off = c.blk from hc), if_neg hc]

@[simp] theorem absorbBytes_nil (c : Cfg) (e : Engine) : absorbBytes c e [] = e := rfl

@[simp] theorem absorbBytes_cons (c : Cfg) (e : Engine) (b : Byte) (bs : List Byte) :
    absorbBytes c e (b :: bs) = absorbBytes c (absorbByte c e b) bs := rfl

theorem absorbBytes_append (c : Cfg) (e : Engine) (xs ys : List Byte) :
    absorbBytes c e (xs ++ ys) = absorbBytes c (absorbBytes c e xs) ys := List.foldl_append

@[simp] theorem absorbBytes_len (c : Cfg) (bs : List Byte) : ∀ e, (absorbBytes c e bs).len = e.len := by
  induction bs with
  | nil => intro e; rfl
  | cons b bs ih => intro e; rw [absorbBytes_cons, ih, absorbByte_len]

theorem absorbBytes_setLen (c : Cfg) (bs : List Byte) : ∀ (e : Engine) (x : Counter),
    absorbBytes c { e with len := x } bs = { absorbBytes c e bs with len := x } := by
  induction bs with
  | nil => intro e x; rfl
  | cons b bs ih => intro e x; rw [absorbBytes_cons, absorbByte_setLen, ih]; rfl

@[simp] theorem inputBytes_nil (c : Cfg) (e : Engine) : inputBytes c e [] = e := by
  simp [inputBytes]

/-- Two INPUTs absorb what one INPUT of their bytes together absorbs. -/
theorem inputBytes_append (c : Cfg) (e : Engine) (xs ys : List Byte) :
    inputBytes c e (xs ++ ys) = inputBytes c (inputBytes c e xs) ys := by
  have h := absorbBytes_setLen c ys (absorbBytes c e xs)
    ((absorbBytes c e xs).len + BitVec.ofNat 128 (8 * xs.length))
  unfold inputBytes
  rw [h]
  simp only [absorbBytes_append, absorbBytes_len, List.length_append, Nat.mul_add, BitVec.ofNat_add,
    BitVec.add_assoc]

theorem absorbTrace_append (c : Cfg) (xs ys : List Byte) : ∀ e,
    absorbTrace c e (xs ++ ys) = absorbTrace c e xs ++ absorbTrace c (absorbBytes c e xs) ys := by
  induction xs with
  | nil => intro e; rfl
  | cons x xs ih => intro e; simp [absorbTrace, ih]

/-- The blocks handed over do not depend on the length counter. -/
theorem absorbTrace_setLen (c : Cfg) (bs : List Byte) : ∀ (e : Engine) (x : Counter),
    absorbTrace c { e with len := x } bs = absorbTrace c e bs := by
  induction bs with
  | nil => intro e x; rfl
  | cons b bs ih =>
    intro e x
    simp only [absorbTrace, absorbByte_setLen, ih]
    rfl

/-- Apart from the buffer, absorbing bytes is folding the block hook over the blocks handed over. -/
theorem absorbBytes_fold (c : Cfg) (bs : List Byte) : ∀ (e : Engine) (buf off len),
    (absorbBytes c e bs).setBuffer buf off len =
      (absorbTrace c e bs).foldl (transformBlock c) (e.setBuffer buf off len) := by
  induction bs with
  | nil => intro e buf off len; rfl
  | cons b bs ih =>
    intro e buf off len
    rw [absorbBytes_cons, ih, absorbTrace]
    by_cases h : (storeByte e b).off = c.blk
    · rw [if_pos h, List.singleton_append, List.foldl_cons]
      congr 1
      rw [absorbByte, drainBuffer, if_pos h]
      exact (transformBlock_setBuffer c (storeByte e b) (bufferBlock c (storeByte e b)) buf off len).symm
    · rw [if_neg h, List.nil_append]
      congr 1
      rw [absorbByte, drainBuffer, if_neg h]
      rfl

/-! ### The fresh engine -/

@[simp] theorem freshEngine_off (c : Cfg) : (freshEngine c).off = 0 := by
  unfold freshEngine resetState
  cases c.alg with
  | none => rfl
  | some a =>
    cases a with
    | blake2b => simp only [blakeResetState]; split <;> rfl
    | _ => rfl

@[simp] theorem freshEngine_len (c : Cfg) : (freshEngine c).len = 0 := by
  unfold freshEngine resetState
  cases c.alg with
  | none => rfl
  | some a =>
    cases a with
    | blake2b => simp only [blakeResetState]; split <;> rfl
    | _ => rfl

@[simp] theorem freshEngine_buf (c : Cfg) : (freshEngine c).buf = Vector.replicate 168 0 := by
  unfold freshEngine resetState
  cases c.alg with
  | none => rfl
  | some a =>
    cases a with
    | blake2b => simp only [blakeResetState]; split <;> rfl
    | _ => rfl

/-- A freshly reset instance holds the empty message. -/
theorem Inst.holds_nil {I : Inst} (h : I.eng = freshEngine I.cfg) : I.holds [] := by
  simp [Inst.holds, h]

/-! ### Blocks -/

/-- The first whole block of a byte string. -/
theorem blocksOf_append_block {n : Nat} (hn : 0 < n) {B : List Byte} (hB : B.length = n) (D : List Byte) :
    blocksOf n (B ++ D) = B :: blocksOf n D := by
  have hlen : (B ++ D).length / n = D.length / n + 1 := by
    rw [List.length_append, hB, Nat.add_comm, Nat.add_div_right _ hn]
  unfold blocksOf
  rw [hlen, List.range_succ_eq_map, List.map_cons, List.map_map]
  congr 1
  · simp [bytesAt, ← hB]
  · refine List.map_congr_left fun i _ => ?_
    simp only [Function.comp, bytesAt]
    rw [Nat.mul_succ, Nat.add_comm, ← List.drop_drop, ← hB, List.drop_left]

theorem blocksOf_short {n : Nat} {D : List Byte} (h : D.length < n) : blocksOf n D = [] := by
  simp [blocksOf, Nat.div_eq_of_lt h]

/-- Storing a byte extends the partial block. -/
theorem partialBlock_storeByte {e : Engine} (h : e.off.toNat < 168) (b : Byte) :
    partialBlock (storeByte e b) = partialBlock e ++ [b] := by
  have h1 : (e.off + 1).toNat = e.off.toNat + 1 := by
    rw [BitVec.toNat_add]; simp; omega
  simp only [partialBlock, storeByte_off, storeByte_buf, h1, Vector.toList_setIfInBounds]
  rw [List.take_add_one, List.take_set_of_le (Nat.le_refl _)]
  congr 1
  simp [h]

theorem length_partialBlock {e : Engine} (h : e.off.toNat ≤ 168) :
    (partialBlock e).length = e.off.toNat := by
  simp [partialBlock, h]

end Sys2Proof.Machine
end

