-- ==== Sys2Proof/Laws/PerInstr.lean ====
section
/-! SUPPORT. A statement about every command as syntax, one lemma per constructor: its encoding is no illegal
value. -/

namespace Sys2Proof.Laws.EncodingLegal

/-- The encoding of the command is a legal CMD value: OP in 1 to 5, RSV 0, and ALG 0 unless OP is 1
(30_encoding.md R95). -/
def Statement (i : Instr) : Prop :=
  (1 ≤ (opField (encode i)).toNat ∧ (opField (encode i)).toNat ≤ 5) ∧ rsvField (encode i) = 0 ∧
    (opField (encode i) ≠ 1 → algField (encode i) = 0)

theorem of_commandWord {i : Instr} {op alg : Byte} (h : encode i = commandWord op alg)
    (ho : 1 ≤ op.toNat ∧ op.toNat ≤ 5) (ha : op ≠ 1 → alg = 0) : Statement i := by
  unfold Statement
  rw [h]
  simpa using ⟨ho, ha⟩

theorem configureMd2 : Statement .configureMd2 := of_commandWord rfl (by decide) (fun h => absurd rfl h)

theorem configureMd4 : Statement .configureMd4 := of_commandWord rfl (by decide) (fun h => absurd rfl h)

theorem configureMd5 : Statement .configureMd5 := of_commandWord rfl (by decide) (fun h => absurd rfl h)

theorem configureSha1 : Statement .configureSha1 := of_commandWord rfl (by decide) (fun h => absurd rfl h)

theorem configureSha2_256 : Statement .configureSha2_256 := of_commandWord rfl (by decide) (fun h => absurd rfl h)

theorem configureSha2_512 : Statement .configureSha2_512 := of_commandWord rfl (by decide) (fun h => absurd rfl h)

theorem configureSha3 : Statement .configureSha3 := of_commandWord rfl (by decide) (fun h => absurd rfl h)

theorem configureShake128 : Statement .configureShake128 := of_commandWord rfl (by decide) (fun h => absurd rfl h)

theorem configureShake256 : Statement .configureShake256 := of_commandWord rfl (by decide) (fun h => absurd rfl h)

theorem configureRipemd128 : Statement .configureRipemd128 := of_commandWord rfl (by decide) (fun h => absurd rfl h)

theorem configureRipemd160 : Statement .configureRipemd160 := of_commandWord rfl (by decide) (fun h => absurd rfl h)

theorem configureBlake2b : Statement .configureBlake2b := of_commandWord rfl (by decide) (fun h => absurd rfl h)

theorem configureUnsupported (alg : Byte) : Statement (.configureUnsupported alg) :=
  of_commandWord rfl (by decide) (fun h => absurd rfl h)

theorem input : Statement .input := of_commandWord rfl (by decide) (fun _ => rfl)

theorem digest : Statement .digest := of_commandWord rfl (by decide) (fun _ => rfl)

theorem digest0 : Statement .digest0 := of_commandWord rfl (by decide) (fun _ => rfl)

theorem reset : Statement .reset := of_commandWord rfl (by decide) (fun _ => rfl)

end Sys2Proof.Laws.EncodingLegal
end

