-- ==== Sys2Proof/Tests/Slice0.lean ====
section
/-! SUPPORT. The model's own tests: the well-formedness check, the decoder on words written out from the spec's
encoding, single commands on small states, and for every statement with hypotheses a state and operands that meet
them. Expected results come from spec/ (the rule or vector is named) or are worked by hand from it. -/

namespace Sys2Proof.Tests

open Sys2Proof.Machine

/-! ### Well-formedness (30_encoding.md R92) -/

theorem test_wellformed_refuses_supported_codes :
    ∀ a ∈ ([1, 2, 3, 4, 5, 6, 7, 8, 9, 10, 11, 12] : List Byte),
      (Instr.configureUnsupported a).wellFormed = false := by decide

theorem test_wellformed_keeps_unsupported_codes :
    ∀ a ∈ ([0, 13, 255] : List Byte), (Instr.configureUnsupported a).wellFormed = true := by decide

/-! ### Decoding, the fields RSV, ALG and OP of 30_encoding.md R90 written out in binary -/

/-- A CMD value from the bits of its low half word, RSV being 0. -/
def cmd (low : BitVec 16) : Lane := low.setWidth 64

theorem test_decode_configure_md : decode (cmd 0b00000001_00000001) = .ok .configureMd2 ∧
    decode (cmd 0b00000010_00000001) = .ok .configureMd4 ∧
    decode (cmd 0b00000011_00000001) = .ok .configureMd5 := by decide

theorem test_decode_configure_sha : decode (cmd 0b00000100_00000001) = .ok .configureSha1 ∧
    decode (cmd 0b00000101_00000001) = .ok .configureSha2_256 ∧
    decode (cmd 0b00000110_00000001) = .ok .configureSha2_512 := by decide

theorem test_decode_configure_sponge : decode (cmd 0b00000111_00000001) = .ok .configureSha3 ∧
    decode (cmd 0b00001000_00000001) = .ok .configureShake128 ∧
    decode (cmd 0b00001001_00000001) = .ok .configureShake256 := by decide

theorem test_decode_configure_others : decode (cmd 0b00001010_00000001) = .ok .configureRipemd128 ∧
    decode (cmd 0b00001011_00000001) = .ok .configureRipemd160 ∧
    decode (cmd 0b00001100_00000001) = .ok .configureBlake2b ∧
    decode (cmd 0b00000000_00000001) = .ok (.configureUnsupported 0) ∧
    decode (cmd 0b00001101_00000001) = .ok (.configureUnsupported 13) ∧
    decode (cmd 0b11111111_00000001) = .ok (.configureUnsupported 255) := by decide

theorem test_decode_stream : decode (cmd 0b00000000_00000010) = .ok .input ∧
    decode (cmd 0b00000000_00000011) = .ok .digest ∧ decode (cmd 0b00000000_00000100) = .ok .digest0 ∧
    decode (cmd 0b00000000_00000101) = .ok .reset := by decide

/-- 30_encoding.md R95: one value for each condition, at its boundary. -/
theorem test_decode_rejects : decode 0x0 = .error .noSuchOpcode ∧ decode 0x06 = .error .noSuchOpcode ∧
    decode 0x0102 = .error .algNotZero ∧ decode 0x10001 = .error .reservedNotZero ∧
    decode 0x8000000000000001 = .error .reservedNotZero := by decide

theorem test_decode_bytes : decodeBytes [0x02, 0, 0, 0, 0, 0, 0, 0] = .ok .input ∧
    decodeBytes [0x01, 0x07, 0, 0, 0, 0, 0, 0] = .ok .configureSha3 ∧
    decodeBytes [0x02, 0, 0, 0] = .error .notEightBytes := by decide

/-! ### Small states -/

/-- The configurations used below. -/
def md5Cfg : Cfg := Cfg.unkeyed .md5 0 16 64
def sha256Cfg : Cfg := Cfg.unkeyed .sha2_256 256 32 64
def sha3Cfg : Cfg := Cfg.unkeyed .sha3 256 32 136
def blakeCfg : Cfg := Cfg.unkeyed .blake2b 0 64 128

/-- A configured instance that holds the message `M`, with its ARG registers. -/
def inst (c : Cfg) (M : List Byte) (a0 a1 a2 a3 : Lane) : Inst :=
  { Inst.zero with cfg := c, configured := true, eng := inputBytes c (freshEngine c) M,
                   arg0 := a0, arg1 := a1, arg2 := a2, arg3 := a3 }

/-- An unconfigured instance with its ARG registers. -/
def blank (a0 a1 a2 a3 : Lane) : Inst := { Inst.zero with arg0 := a0, arg1 := a1, arg2 := a2, arg3 := a3 }

/-- One instance over 4096 bytes of HM that begin with "abc". -/
def st (I : Inst) : State :=
  { hm := [(0, 0x61), (1, 0x62), (2, 0x63)], hmSize := 4096, instances := [I], sel := 0, program := [],
    readData := 0 }

/-- The selected instance after a command. -/
def after (i : Instr) (s : State) : Option Inst :=
  match exec i s with
  | .next t => t.inst?
  | .fault _ => none
  | .refused _ => none

/-- The bytes of HM from an address after a command. -/
def bytesAfter (i : Instr) (s : State) (a n : Nat) : List Byte :=
  match exec i s with
  | .next t => t.hm.readBytes a n
  | .fault _ => []
  | .refused _ => []

/-- The configuration a command leaves: ERR, DSZ, DLEN and BLK. -/
def configAfter (i : Instr) (a0 : Lane) : Option (ErrCode × Nat × Nat × Nat) :=
  (after i (st (blank a0 0 0 0))).map fun J => (J.err, J.cfg.dsz.toNat, J.cfg.dlen.toNat, J.cfg.blk.toNat)

/-! ### CONFIGURE (40_buffering_engine.md R122, 00_scope.md R8) -/

theorem test_configure_md2 : configAfter .configureMd2 7 = some (.ok, 0, 16, 16) := by decide +kernel
theorem test_configure_md4 : configAfter .configureMd4 7 = some (.ok, 0, 16, 64) := by decide +kernel
theorem test_configure_md5 : configAfter .configureMd5 7 = some (.ok, 0, 16, 64) := by decide +kernel
theorem test_configure_sha1 : configAfter .configureSha1 7 = some (.ok, 0, 20, 64) := by decide +kernel
theorem test_configure_sha2_256 : configAfter .configureSha2_256 224 = some (.ok, 224, 28, 64) ∧
    configAfter .configureSha2_256 384 = some (.invalidConfiguration, 0, 0, 0) := by decide +kernel
theorem test_configure_sha2_512 : configAfter .configureSha2_512 384 = some (.ok, 384, 48, 128) ∧
    configAfter .configureSha2_512 28 = some (.invalidConfiguration, 0, 0, 0) := by decide +kernel
theorem test_configure_sha3 : configAfter .configureSha3 256 = some (.ok, 256, 32, 136) ∧
    configAfter .configureSha3 512 = some (.ok, 512, 64, 72) := by decide +kernel
theorem test_configure_shake128 : configAfter .configureShake128 0 = some (.ok, 0, 0, 168) ∧
    configAfter .configureShake128 (-1) = some (.invalidConfiguration, 0, 0, 0) := by decide +kernel
theorem test_configure_shake256 :
    configAfter .configureShake256 0x7FFFFFFFFFFFFFFF = some (.ok, 0, 2 ^ 63 - 1, 136) := by decide +kernel
theorem test_configure_ripemd128 : configAfter .configureRipemd128 7 = some (.ok, 0, 16, 64) := by
  decide +kernel
theorem test_configure_ripemd160 : configAfter .configureRipemd160 7 = some (.ok, 0, 20, 64) := by
  decide +kernel

/-- 47_blake2b.md R349: h[0] after CONFIGURE with ARG0 = 64 and no key. -/
theorem test_configure_blake2b :
    (after .configureBlake2b (st (blank 64 4096 0 0))).map (fun J => J.eng.blakeH[0]) =
      some 0x6A09E667F2BDC948 := by decide +kernel

/-- The key "ab" is copied, and a key region one byte past HM is INVALID_ARGUMENT (40_buffering_engine.md R121). -/
theorem test_configure_blake2b_key :
    (after .configureBlake2b (st (blank 64 0 2 0))).map
      (fun J => (J.cfg.key.toList.take 3, J.eng.pend, J.eng.blakeT.toNat)) = some ([0x61, 0x62, 0], true, 0) ∧
    (after .configureBlake2b (st (blank 64 4095 2 0))).map (fun J => J.err) = some .invalidArgument := by
  decide +kernel

theorem test_configure_unsupported :
    configAfter (.configureUnsupported 13) 256 = some (.invalidConfiguration, 0, 0, 0) := by decide +kernel

/-! ### INPUT, DIGEST, DIGEST0 and RESET -/

/-- INPUT of "bc" at offset 1 into an MD5 instance: the bytes, OFF and LEN (40_buffering_engine.md R124). -/
theorem test_input :
    (after .input (st (inst md5Cfg [] 0 3 1 2))).map
      (fun J => (partialBlock J.eng, J.eng.off.toNat, J.eng.len.toNat, J.err)) =
      some ([0x62, 0x63], 2, 16, .ok) := by decide +kernel

/-- o + n one past the region (40_buffering_engine.md R123). -/
theorem test_input_rejects :
    (after .input (st (inst md5Cfg [] 0 3 1 3))).map (fun J => J.err) = some .invalidArgument := by
  decide +kernel

set_option Elab.async false in
/-- 95_test_vectors.md T1: MD5 of the empty message, and the bytes around it. -/
theorem test_digest :
    (bytesAfter .digest (st (inst md5Cfg [] 0x100 16 0 0)) 0xFF 18).map BitVec.toNat =
      [0x00, 0xd4, 0x1d, 0x8c, 0xd9, 0x8f, 0x00, 0xb2, 0x04, 0xe9, 0x80, 0x09, 0x98, 0xec, 0xf8, 0x42, 0x7e,
       0x00] := by decide +kernel

/-- size − o one below DLEN, with room beyond the region (40_buffering_engine.md R125). -/
theorem test_digest_rejects :
    (after .digest (st (inst md5Cfg [] 0x100 16 1 0))).map (fun J => (J.err, J.result.toNat)) =
      some (.invalidArgument, 0) := by decide +kernel

set_option Elab.async false in
/-- 95_test_vectors.md T1: SHA-256 of the empty message, and the bytes around it. -/
theorem test_digest0 :
    beNat (bytesAfter .digest0 (st (inst sha256Cfg [] 0x40 0 0 0)) 0x3F 34) =
      0xe3b0c44298fc1c149afbf4c8996fb92427ae41e4649b934ca495991b7852b855 * 256 := by decide +kernel

/-- DIGEST0 whose DLEN bytes end one past HM (40_buffering_engine.md R128). -/
theorem test_digest0_rejects :
    (after .digest0 (st (inst sha256Cfg [] 4065 0 0 0))).map (fun J => J.err) = some .invalidArgument := by
  decide +kernel

/-- 40_buffering_engine.md R129's example: RESET after three bytes into SHA-256. -/
theorem test_reset :
    (after .reset (st (inst sha256Cfg [1, 2, 3] 0 0 0 0))).map
      (fun J => (J.eng.off.toNat, J.eng.len.toNat, J.eng.mdH[0].toNat)) = some (0, 0, 0x6A09E667) := by
  decide +kernel

theorem test_reset_unconfigured :
    (after .reset (st (blank 0 0 0 0))).map (fun J => J.err) = some .notConfigured := by decide +kernel

/-! ### The interface -/

/-- STATUS of a configured instance with ERR = 5 (10_state.md R25). -/
theorem test_status : ({ Inst.zero with configured := true, err := .notConfigured } : Inst).status = 0x105 := by
  decide

/-- A write of ARG3 through the window, and a misaligned one (10_state.md R22, R28). -/
theorem test_register_write :
    (match step { st Inst.zero with program := [.regWrite 0 0x20 8 9] } with
      | .next t => t.inst?.map fun J => J.arg3
      | .fault _ => none
      | .refused _ => none) = some 9 ∧
    (match step { st Inst.zero with program := [.regWrite 0 0x21 8 9] } with
      | .next _ => false
      | .fault _ => false
      | .refused r => decide (r = .notAligned64)) = true := by decide +kernel

/-- The fetch of a command from reset: the very next step runs it. -/
theorem test_fetch_from_reset : step (State.reset.withFetchWord 64 0x301) = exec .configureMd5 State.reset := by
  rfl

/-! ### Datapaths: values worked by hand from the rules -/

/-- The first round of Keccak on the zero state only adds RC[0] (45_keccak_permutation.md R286). -/
theorem test_keccak_round_zero :
    (keccakRound 0 (Vector.replicate 25 0)).toList = (1 : Lane) :: List.replicate 24 0 := by decide +kernel

/-- 46_sponge.md R314: the one-byte case merges both writes. -/
theorem test_sponge_pad : spongePad 0x06 2 [0x61] = [0x61, 0x86] ∧ spongePad 0x1F 3 [] = [0x1F, 0x00, 0x80] := by
  decide +kernel

/-- 41_md_framework.md R173: "abc" in the little-endian and the big-endian order. -/
theorem test_length_field : mdLengthBytes .md5 24 = [24, 0, 0, 0, 0, 0, 0, 0] ∧
    mdLengthBytes .sha1 24 = [0, 0, 0, 0, 0, 0, 0, 24] ∧ (mdLengthBytes .sha2_512 24).length = 16 := by
  decide +kernel

/-- 00_scope.md R11. -/
theorem test_byte_order : le32 [1, 2, 3, 4] 0 = 0x04030201 ∧ be32 [1, 2, 3, 4] 0 = 0x01020304 ∧
    be64 [1, 2, 3, 4, 5, 6, 7, 8] 0 = 0x0102030405060708 := by decide


section Vectors

set_option Elab.async false

/-! ### One compression of each algorithm, from the vectors of 95_test_vectors.md T1, T5 and T6

The padded block is written out; the expected registers are the digest's words in the algorithm's byte order.
These are checked one at a time, so that no thread waits on another. -/

/-- The registers after one compression from the IV. -/
def compressed (a : Alg) (dsz : Nat) (B : List Byte) : List Nat :=
  (mdCompress a (mdIV a dsz) B).toList.map BitVec.toNat

/-- The padded block of "abc" with a big-endian length. -/
def abcBlock (n : Nat) : List Byte := [0x61, 0x62, 0x63, 0x80] ++ zeros (n - 5) ++ [24]

/-- The padded block of the empty message. -/
def emptyBlock : List Byte := [0x80] ++ zeros 63

/-- X after the padded block of the empty message (T5). -/
theorem test_md2_compress : (md2Compress (Vector.replicate 16 0) (List.replicate 16 0x10)).toList.map BitVec.toNat =
    [0x31, 0xc1, 0x7e, 0x5e, 0x99, 0x4d, 0x1c, 0x70,
       0xe5, 0x72, 0xc7, 0x8d, 0x94, 0xf8, 0xf9, 0x9a] := by
  decide +kernel
theorem test_md4_compress : compressed .md4 0 emptyBlock =
    [0xe0cfd631, 0x31e96ad1, 0xd7593cb7, 0xc089c0e0, 0, 0, 0, 0] := by decide +kernel
theorem test_sha1_compress : compressed .sha1 0 (abcBlock 64) =
    [0xa9993e36, 0x4706816a, 0xba3e2571, 0x7850c26c, 0x9cd0d89d, 0, 0, 0] := by decide +kernel
theorem test_ripemd128_compress : compressed .ripemd128 0 emptyBlock =
    [0x1362f2cd, 0x3edc50a1, 0x180f61cb, 0x468bb3f6, 0, 0, 0, 0] := by decide +kernel
theorem test_ripemd160_compress : compressed .ripemd160 0 emptyBlock =
    [0xa585119c, 0x54fce9c5, 0x97082861, 0x48f5e87e, 0x318d25b2, 0, 0, 0] := by decide +kernel
theorem test_sha512_compress : compressed .sha2_512 512 (abcBlock 128) =
    [0xddaf35a193617aba, 0xcc417349ae204131, 0x12e6fa4e89a97ea2,
       0x0a9eeee64b55d39a, 0x2192992a274fc1a8, 0x36ba3c23a3feebbd,
       0x454d4423643ce80e, 0x2a9ac94fa54ca49f] := by decide +kernel

/-- KeccakF of the zero state after round 2, A[0] and A[1] (T5). -/
theorem test_keccak_rounds : (keccakRound 2 (keccakRound 1 (keccakRound 0 (Vector.replicate 25 0)))
    |>.toList.take 2 |>.map BitVec.toNat) =
    [0x8030500001E0840C, 0x38CA983082300106] := by decide +kernel

/-- BLAKE2b-512 of "abc": h after the single final compression, t = 3 (T5). -/
theorem test_blake2b_compress :
    (blakeF (blakeIV.set 0 0x6A09E667F2BDC948) ([0x61, 0x62, 0x63] ++ zeros 125) 3 true).toList.map BitVec.toNat =
      [0x0D4D1C983FA580BA, 0xE9F6129FB697276A, 0xB7C45A68142F214C,
       0xD1A2FFDB6FBB124B, 0x2D79AB2A39C5877D, 0x95CC3345DED552C2,
       0x5A92F1DBA88AD318, 0x239900D4ED8623B9] := by decide +kernel

end Vectors

/-! ### Witnesses: for each statement with hypotheses, states and operands that meet them

A witness gives the hypotheses of its statement, for each clause at a value where the clause begins or ends. -/

theorem inst?_st (I : Inst) : (st I).inst? = some I := rfl

/-- An instance built by `inst` holds its message. -/
theorem holds_inst (c : Cfg) (M : List Byte) (a0 a1 a2 a3 : Lane) : (inst c M a0 a1 a2 a3).holds M := rfl

theorem inv_inst {c : Cfg} (h : c.ok = true) (M : List Byte) (a0 a1 a2 a3 : Lane) :
    (inst c M a0 a1 a2 a3).Inv :=
  ⟨rfl, by simp [inst, Inst.zero], by simp [inst], fun _ => ⟨h, M, holds_inst ..⟩⟩

theorem inv_st {I : Inst} (h : I.Inv) (p : List HostAccess) : State.Inv { st I with program := p } :=
  ⟨by simp [st, Memory.wf, Memory.fill], by simp [st, Memory.below], by simp [st], by simpa [st] using h⟩

/-- SHAKE128 with an output of 0 bytes. -/
def shakeCfg : Cfg := Cfg.unkeyed .shake128 0 0 168

/-- Configurations of every algorithm, at the ends of their ranges. -/
def configurations : List Cfg :=
  [Cfg.unkeyed .md2 0 16 16, Cfg.unkeyed .md4 0 16 64, md5Cfg, Cfg.unkeyed .sha1 0 20 64,
   Cfg.unkeyed .sha2_256 224 28 64, sha256Cfg, Cfg.unkeyed .sha2_512 224 28 128,
   Cfg.unkeyed .sha2_512 512 64 128] ++
  [Cfg.unkeyed .sha3 224 28 144, sha3Cfg, Cfg.unkeyed .sha3 512 64 72, shakeCfg,
   Cfg.unkeyed .shake256 0 (2 ^ 63 - 1) 136, Cfg.unkeyed .ripemd128 0 16 64, Cfg.unkeyed .ripemd160 0 20 64,
   Cfg.unkeyed .blake2b 0 1 128, blakeCfg, { blakeCfg with keyLen := 64, key := Vector.replicate 64 1 }]

/-- For every algorithm and every message, so at every padding boundary. Meets FreshEngineState, HookContract,
MdDigestIsTheHash, Md2DigestIsTheHash, Sha3SqueezesOnce, SpongeDigestIsTheHash, BlakeFinalCounter,
BlakeDigestIsTheHash and FieldUse. -/
theorem witness_configurations : ∀ c ∈ configurations, ∀ M : List Byte,
    (inst c M 0 0 0 0).cfg.ok = true ∧ (inst c M 0 0 0 0).cfg.alg.isSome = true ∧ (inst c M 0 0 0 0).holds M := by
  intro c h M
  have h' : ∀ c ∈ configurations, c.ok = true ∧ c.alg.isSome = true := by decide +kernel
  exact ⟨(h' c h).1, (h' c h).2, rfl⟩

theorem witness_EncodeDecodeAgree :
    Instr.digest0.wellFormed = true ∧ (Instr.configureUnsupported 13).wellFormed = true ∧
      decode 0x4 = .ok .digest0 := by decide

theorem witness_IllegalCommandValues :
    IllegalValue 0 ∧ IllegalValue 6 ∧ IllegalValue 0x102 ∧ IllegalValue 0x10001 ∧ ¬IllegalValue 1 ∧
      ¬IllegalValue 5 ∧ ¬IllegalValue 0xFF01 ∧ (st Inst.zero).inst? = some Inst.zero ∧ Inst.zero.fatal = false := by
  refine ⟨?_, ?_, ?_, ?_, ?_, ?_, ?_, rfl, rfl⟩ <;> unfold IllegalValue <;> decide +kernel

theorem witness_StepRunsDecodedCommand :
    ({ st Inst.zero with program := [cmdWrite 0 0x301] } : State).program = [cmdWrite 0 0x301] ∧
      decode 0x301 = .ok .configureMd5 ∧ (∀ i, decode 0x6 ≠ .ok i) ∧ Instr.configureMd5.wellFormed = true := by
  refine ⟨rfl, by decide, ?_, by decide⟩
  intro i h
  rw [show decode 0x6 = .error .noSuchOpcode by decide] at h
  cases h

theorem witness_HardwareReset :
    ({ st (inst md5Cfg [1] 0 0 0 0) with program := [.hardwareReset] } : State).program =
      .hardwareReset :: [] := rfl

/-- Three bytes of HM, and a byte at each end of its range. -/
theorem witness_ResetMeetsInvariant : 1 ≤ 1 ∧ (st Inst.zero).hm.wf = true ∧ (st Inst.zero).hm.below 3 = true ∧
    Memory.wf [(0, 1), (2 ^ 63 - 1, 2)] = true ∧ Memory.below [(0, 1), (2 ^ 63 - 1, 2)] (2 ^ 63) = true := by
  decide

/-- The step runs INPUT on a configured instance; with BufferInvariants' message `[1, 0x61, 0x62, 0x63]`. -/
theorem witness_StepKeepsInvariant :
    ∃ s t : State, s.Inv ∧ s.program ≠ [] ∧ step s = .next t := by
  refine ⟨{ st (inst md5Cfg [1] 0 3 0 3) with program := [cmdWrite 0 2] }, ?_⟩
  obtain ⟨t, h, -⟩ := exec_effect .input (inst?_st (inst md5Cfg [1] 0 3 0 3))
  exact ⟨t, inv_st (inv_inst (by decide +kernel) ..) _, by simp, h⟩

theorem witness_EveryCommandCompletes :
    (st Inst.zero).sel < (st Inst.zero).instances.length ∧
      ¬({ st Inst.zero with sel := 1 } : State).sel < ({ st Inst.zero with sel := 1 } : State).instances.length := by decide

/-- Meets ConfigureFixedSizeCompletes, ConfigureSha2Completes, ConfigureSha3Completes, ConfigureShakeCompletes and
ConfigureUnsupportedCompletes. -/
theorem witness_Configure :
    (st (blank 7 0 0 0)).inst? = some (blank 7 0 0 0) ∧ (blank 7 0 0 0).fatal = false ∧
      (∀ n ∈ ([224, 256, 384, 512, 0, 2 ^ 63 - 1] : List Nat),
        (blank (BitVec.ofNat 64 n) 0 0 0).arg0.toInt = n) := ⟨rfl, rfl, by decide +kernel⟩

theorem witness_ConfigureBlake2bCompletes :
    ∀ I ∈ [blank 1 4096 0 0, blank 64 4032 64 0], (st I).inst? = some I ∧ I.fatal = false ∧
      1 ≤ I.arg0.toInt ∧ I.arg0.toInt ≤ 64 ∧ 0 ≤ I.arg2.toInt ∧ I.arg2.toInt ≤ 64 ∧
      Valid (st I).hmSize I.arg1.toInt I.arg2.toInt := by
  intro I h
  refine ⟨rfl, ?_⟩
  revert I
  unfold Valid; decide +kernel

theorem witness_RejectedConfigurations :
    rejectedConfiguration .configureSha2_256 384 0 ∧ ¬rejectedConfiguration .configureSha2_256 256 0 ∧
      rejectedConfiguration .configureSha3 0 0 ∧ rejectedConfiguration .configureShake128 (-1) 0 ∧
      ¬rejectedConfiguration .configureShake128 0 0 ∧ rejectedConfiguration .configureBlake2b 65 0 ∧
      rejectedConfiguration .configureBlake2b 64 65 ∧ ¬rejectedConfiguration .configureBlake2b 64 64 ∧
      rejectedConfiguration (.configureUnsupported 13) 0 0 ∧ Instr.configureMd2.isConfigure = true := by
  simp [rejectedConfiguration, Instr.isConfigure]

/-- A buffer filled past its block, which no run reaches. -/
def overfull (a0 a1 : Lane) : Inst :=
  { inst shakeCfg [] a0 a1 0 0 with eng := { freshEngine shakeCfg with off := 168 } }

/-- An instance with FATAL set, which no run reaches. -/
def dead : Inst := { inst md5Cfg [] 0 0 0 0 with fatal := true, err := .internalInvariant }

theorem witness_FatalIsFinal :
    (overfull 0 0).fatal = false ∧ (overfull 0 0).configured = true ∧
      ¬(overfull 0 0).eng.off.toNat < (overfull 0 0).cfg.blk.toNat ∧ 0 ≤ (overfull 0 0).arg2.toInt ∧
      ((overfull 0 0).cfg.dlen.toNat : Int) ≤ (overfull 0 0).arg1.toInt - (overfull 0 0).arg2.toInt ∧
      Valid (st (overfull 0 0)).hmSize (overfull 0 0).arg0.toInt (overfull 0 0).arg1.toInt ∧
      Valid (st (overfull 0 0)).hmSize (overfull 0 0).arg0.toInt (overfull 0 0).cfg.dlen.toNat ∧
      dead.fatal = true ∧ (∃ t, step { st dead with program := [cmdWrite 0 5] } = .next t) ∧
      (∀ rest, ({ st dead with program := [cmdWrite 0 5] } : State).program ≠ .hardwareReset :: rest) := by
  refine ⟨rfl, rfl, by decide +kernel, by decide +kernel, by decide +kernel, ?_, ?_, rfl, ⟨_, rfl⟩, ?_⟩
  · unfold Valid; decide +kernel
  · unfold Valid; decide +kernel
  · simp [cmdWrite]

/-- Also meets CommandFrame and ResultRegister. -/
theorem witness_NotConfigured :
    (blank 0 0 0 0).fatal = false ∧ (blank 0 0 0 0).configured = false ∧ Instr.reset.isConfigure = false ∧
      (∀ i : Instr, ∃ t, exec i (st (blank 256 0 0 0)) = .next t ∧ ∃ J, t.inst? = some J) ∧
      (∃ t, exec .reset (st (inst md5Cfg [1] 0 0 0 0)) = .next t) := by
  refine ⟨rfl, rfl, rfl, fun i => ?_, ?_⟩
  · obtain ⟨t, h, e⟩ := exec_effect i (inst?_st (blank 256 0 0 0))
    exact ⟨t, h, by cases e <;> exact ⟨_, rfl⟩⟩
  · obtain ⟨t, h, -⟩ := exec_effect .reset (inst?_st (inst md5Cfg [1] 0 0 0 0))
    exact ⟨t, h⟩

theorem witness_ErrorPriority :
    dead.fatal = true ∧ (blank 0 0 0 0).fatal = false ∧ IllegalValue 0x10001 ∧
      decode 0x2 = .ok .input ∧ (blank 0 0 0 0).configured = false ∧ decode 0xC01 = .ok .configureBlake2b ∧
      ¬rejectedConfiguration .configureBlake2b 64 1 ∧ ¬Valid 4096 4096 1 ∧ Valid 4096 4095 1 ∧
      decode 0x3 = .ok .digest ∧ decode 0x4 = .ok .digest0 ∧ decode 0x5 = .ok .reset ∧
      (∀ I ∈ [inst md5Cfg [] 4000 96 0 96, inst md5Cfg [] 4000 96 0 97, inst md5Cfg [] 4000 97 0 1],
        I.configured = true ∧ I.fatal = false) ∧ (overfull 0 0).configured = true := by
  refine ⟨rfl, rfl, by unfold IllegalValue; decide, by decide, rfl, by decide, ?_, ?_, ?_, by decide, by decide,
    by decide, ?_, rfl⟩
  · simp [rejectedConfiguration]
  · simp [Valid]
  · simp [Valid]
  · intro I h; simp only [List.mem_cons, List.not_mem_nil, or_false] at h
    rcases h with h | h | h <;> subst h <;> exact ⟨rfl, rfl⟩

theorem witness_ErrorsPrecise :
    ∃ t e, execValue 0x6 (st Inst.zero) = .next t ∧ errAfter (.next t) = some e ∧ e ≠ .ok :=
  ⟨_, .illegalCommand, rfl, rfl, by decide⟩

/-- INPUT at the edges: n = 0; o + n = size; base + size = HMSIZE; and one byte more. -/
def inputArgs : List Inst :=
  [inst md5Cfg [] 4096 0 0 0, inst md5Cfg [1] 0 3 1 2, inst md5Cfg [1] 4000 96 0 96]

theorem witness_InputCompletes :
    ∀ I ∈ inputArgs, (st I).inst? = some I ∧ I.fatal = false ∧ I.configured = true ∧ 0 ≤ I.arg2.toInt ∧
      0 ≤ I.arg3.toInt ∧ I.arg2.toInt + I.arg3.toInt ≤ I.arg1.toInt ∧
      Valid (st I).hmSize I.arg0.toInt I.arg1.toInt ∧ I.eng.off.toNat < I.cfg.blk.toNat := by
  intro I h
  refine ⟨rfl, ?_⟩
  revert I
  unfold Valid; decide +kernel

theorem witness_InputRejects :
    let I := inst md5Cfg [1] 4000 97 0 1
    (st I).inst? = some I ∧ I.fatal = false ∧ I.configured = true ∧ ¬Valid (st I).hmSize I.arg0.toInt I.arg1.toInt := by
  refine ⟨rfl, rfl, rfl, ?_⟩; unfold Valid; decide +kernel

theorem witness_ChunkingInvariance :
    let s := st (inst md5Cfg [] 0 0 0 0)
    let one : List Operands := [⟨0, 3, 0, 3⟩]
    let two : List Operands := [⟨0, 1, 0, 1⟩, ⟨0, 3, 1, 2⟩]
    (inputCalls one s).isSome = true ∧ (inputCalls two s).isSome = true ∧
      one.flatMap (callBytes s.hm) = two.flatMap (callBytes s.hm) := by decide +kernel

/-- With `holds_inst`; also meets BufferInvariants, through `witness_StepKeepsInvariant`. -/
theorem witness_MessageOfAnInstance :
    ∀ i : Instr, ∃ t, exec i (st (inst md5Cfg [1] 0 3 0 3)) = .next t := fun i =>
  let ⟨t, h, _⟩ := exec_effect i (inst?_st (inst md5Cfg [1] 0 3 0 3)); ⟨t, h⟩

theorem witness_InputWorkBound :
    ∀ c ∈ configurations, (freshEngine c).off.toNat < c.blk.toNat ∧ c.blk.toNat ≤ 168 := by decide +kernel

theorem witness_DigestCompletes :
    let I := inst shakeCfg [1] 4095 1 1 0
    (st I).inst? = some I ∧ I.fatal = false ∧ I.configured = true ∧ I.eng.off.toNat < I.cfg.blk.toNat ∧
      0 ≤ I.arg2.toInt ∧ (I.cfg.dlen.toNat : Int) ≤ I.arg1.toInt - I.arg2.toInt ∧
      Valid (st I).hmSize I.arg0.toInt I.arg1.toInt := by
  refine ⟨rfl, rfl, rfl, ?_⟩; unfold Valid; decide +kernel

theorem witness_Digest0Completes :
    let I := inst md5Cfg [1] 4080 0 0 0
    (st I).inst? = some I ∧ I.fatal = false ∧ I.configured = true ∧ I.eng.off.toNat < I.cfg.blk.toNat ∧
      Valid (st I).hmSize I.arg0.toInt I.cfg.dlen.toNat := by
  refine ⟨rfl, rfl, rfl, ?_⟩; unfold Valid; decide +kernel

theorem witness_DigestIsolation :
    (st (inst shakeCfg [1] 4096 0 0 0)).hm.wf = true ∧ shakeCfg.ok = true ∧
      (∀ i ∈ [Instr.digest, .digest0],
        errAfter (exec i (st (inst shakeCfg [1] 4096 0 0 0))) = some .ok ∧
        errAfter (exec i (st (inst shakeCfg [1] 4097 0 0 0))) = some .invalidArgument) := by decide +kernel

theorem witness_ResetCompletes :
    let I := inst md5Cfg [] 0 0 0 0
    (st I).inst? = some I ∧ I.fatal = false ∧ I.configured = true ∧ I.eng = freshEngine I.cfg ∧ I.err = .ok := by
  refine ⟨rfl, rfl, rfl, ?_, rfl⟩
  simp [inst]

theorem witness_ReuseAfterDigest :
    (after .configureShake128 (st (blank 0 0 0 0))).map (fun J => (J.err, J.cfg)) = some (.ok, shakeCfg) ∧
      (after .digest (st (inst shakeCfg [1] 0 0 0 0))).map (fun L => L.err) = some .ok := by decide +kernel

theorem witness_ReadsOnlyOperandRegion :
    ∃ (I : Inst) (m : Memory), (st I).inst? = some I ∧ m ≠ (st I).hm ∧
      (∀ a, commandReads .input I a = true → m.read a = (st I).hm.read a) ∧ ∃ t, exec .input (st I) = .next t := by
  refine ⟨inst md5Cfg [] 0 3 1 2, [(1, 0x62), (2, 0x63), (9, 1)], rfl, by decide, fun a h => ?_, ?_⟩
  · have h' : 1 ≤ a ∧ a < 3 := by
      simp only [commandReads, Bool.and_eq_true, decide_eq_true_eq] at h
      have e0 : (inst md5Cfg [] 0 3 1 2).argInt0 = 0 := by decide
      have e2 : (inst md5Cfg [] 0 3 1 2).argInt2 = 1 := by decide
      have e3 : (inst md5Cfg [] 0 3 1 2).argInt3 = 2 := by decide
      omega
    obtain rfl | rfl : a = 1 ∨ a = 2 := by omega
    · decide
    · decide
  · obtain ⟨t, h, -⟩ := exec_effect .input (inst?_st (inst md5Cfg [] 0 3 1 2))
    exact ⟨t, h⟩

/-- Two instances: the first reads bytes 0 to 2, the second writes bytes 3 to 18. -/
def two : State :=
  { st (inst md5Cfg [] 0 3 0 3) with instances := [inst md5Cfg [] 0 3 0 3, inst md5Cfg [] 3 0 0 0] }

theorem witness_InstancesCommute :
    two.Inv ∧ two.instances[0]? = some (inst md5Cfg [] 0 3 0 3) ∧
      two.instances[1]? = some (inst md5Cfg [] 3 0 0 0) ∧
      ∀ a, ¬(commandWrites .input (inst md5Cfg [] 0 3 0 3) a = true ∧
          (commandReads .digest0 (inst md5Cfg [] 3 0 0 0) a = true ∨
            commandWrites .digest0 (inst md5Cfg [] 3 0 0 0) a = true)) ∧
        ¬(commandWrites .digest0 (inst md5Cfg [] 3 0 0 0) a = true ∧
          commandReads .input (inst md5Cfg [] 0 3 0 3) a = true) := by
  refine ⟨⟨by decide, by decide, by simp [two], fun I h => ?_⟩, rfl, rfl, fun a => ⟨by simp [commandWrites], ?_⟩⟩
  · simp only [two, List.mem_cons, List.not_mem_nil, or_false] at h
    rcases h with h | h <;> subst h <;> exact inv_inst (by decide +kernel) ..
  · rintro ⟨h, g⟩
    simp only [commandReads, commandWrites, Bool.and_eq_true, decide_eq_true_eq] at h g
    have e0 : (inst md5Cfg [] 0 3 0 3).argInt0 = 0 := by decide
    have e2 : (inst md5Cfg [] 0 3 0 3).argInt2 = 0 := by decide
    have e3 : (inst md5Cfg [] 0 3 0 3).argInt3 = 3 := by decide
    have f0 : (inst md5Cfg [] 3 0 0 0).argInt0 = 3 := by decide
    omega

/-- Also meets RegisterSlots. -/
theorem witness_WindowAccessRules :
    (st Inst.zero).instances[0]? = some Inst.zero ∧ (4 ≠ 8 ∨ (0x28 : BitVec 8).toNat % 8 ≠ 0) ∧
      (8 ≠ 8 ∨ (0x29 : BitVec 8).toNat % 8 ≠ 0) ∧ (0x28 : BitVec 8).toNat % 8 = 0 ∧
      0x28 ≤ (0xF8 : BitVec 8).toNat ∧ (0x00 : BitVec 8).toNat = 0x00 ∧ 0x50 ≤ (0x50 : BitVec 8).toNat := ⟨rfl, by decide⟩

theorem witness_ViewRegisters :
    md5Cfg.alg = some .md5 ∧ Inst.zero.Inv ∧ Inst.zero.configured = false :=
  ⟨rfl, ⟨rfl, by decide, fun _ => ⟨rfl, rfl⟩, by simp [Inst.zero]⟩, rfl⟩

theorem witness_HostMemoryAccess :
    (st Inst.zero).hm.wf = true ∧ 4095 < ((st Inst.zero).hmSize : Nat) ∧ ¬4096 < ((st Inst.zero).hmSize : Nat) := by
  decide

theorem witness_RotationsAndByteOrder :
    0 < 1 ∧ 31 < 32 ∧ 63 < 64 ∧ 4 + 4 ≤ ([1, 2, 3, 4, 5, 6, 7, 8] : List Byte).length ∧
      0 + 8 ≤ ([1, 2, 3, 4, 5, 6, 7, 8] : List Byte).length := by decide

theorem witness_PaddingBoundaries :
    mdLengthField .md5 = 8 ∧ (∀ n ∈ [0, 55, 56, 63], (zeros n).length < 64) ∧
      (∀ n ∈ [0, 111, 112, 127], (zeros n).length < 128) ∧ (zeros 64).length = 64 := by decide +kernel

theorem witness_Md2ChecksumAndSBox :
    (zeros 16).length = 16 ∧ ∀ B ∈ [zeros 16, List.replicate 16 0xFF], B.length = 16 := by decide

theorem witness_KeccakSteps :
    ∀ A : Lanes, ∃ C D : Nat → Lane,
      (∀ k, C k = laneAt A k 0 ^^^ laneAt A k 1 ^^^ laneAt A k 2 ^^^ laneAt A k 3 ^^^ laneAt A k 4) ∧
      (∀ k, D k = C ((k + 4) % 5) ^^^ rotl (C ((k + 1) % 5)) 1) := fun _ => ⟨_, _, fun _ => rfl, fun _ => rfl⟩

theorem witness_AbsorbByLanes :
    (zeros 72).length = 72 ∧ 72 % 8 = 0 ∧ 72 ≤ 200 ∧ (zeros 200).length = 200 ∧ 200 % 8 = 0 := by decide +kernel

/-- The last is the one-byte case of rate 136. -/
theorem witness_SpongePadding :
    ∀ n ∈ [0, 134, 135], (zeros n).length < 136 := by decide +kernel

theorem witness_SqueezeBytes :
    (0 < 1 ∧ 1 ≤ 200) ∧ (0 < 200 ∧ 200 ≤ 200) ∧ 0 < 1 := by decide

theorem witness_ShakePrefix :
    (Alg.shake128, 168) ∈ [(Alg.shake128, 168), (.shake256, 136)] ∧ 0 ≤ 2 ^ 63 - 1 ∧ 2 ^ 63 - 1 < 2 ^ 63 ∧
      (inst shakeCfg [1] 0 0 0 0).holds [1] ∧ (inst (Cfg.unkeyed .shake128 0 (2 ^ 63 - 1) 168) [1] 0 0 0 0).holds [1] :=
  ⟨by decide, by decide, by decide, rfl, rfl⟩

end Sys2Proof.Tests
end

section
/-! PROOF. The message an instance holds (spec/00_scope.md R18): what each end of a command does to it. -/

namespace Sys2Proof.Machine

/-- The message depends on the configuration and the engine only. -/
theorem Inst.holds_iff_of_eq {I J : Inst} (hc : J.cfg = I.cfg) (he : J.eng = I.eng) (M : List Byte) :
    J.holds M ↔ I.holds M := by
  rw [Inst.holds, Inst.holds, hc, he]

/-- Absorbing bytes appends them to the message. -/
theorem Inst.holds_append {I J : Inst} {M bs : List Byte} (hI : I.holds M) (hc : J.cfg = I.cfg)
    (he : J.eng = inputBytes I.cfg I.eng bs) : J.holds (M ++ bs) := by
  rw [Inst.holds, hc, he, inputBytes_append, ← hI]

/-- Two instances of one configuration that hold one message have one engine. -/
theorem Inst.eng_eq_of_holds {I J : Inst} {M : List Byte} (hI : I.holds M) (hJ : J.holds M)
    (hc : I.cfg = J.cfg) : I.eng = J.eng := by
  rw [hI, hJ, hc]

/-- What a command's effect does to the message of its instance. -/
theorem Effect.message {i : Instr} {s t : State} {I : Inst} {M : List Byte} (ef : Effect s I i t)
    (h : s.inst? = some I) (hM : I.holds M) :
    ∃ J, t.inst? = some J ∧ (J.err ≠ .ok → J.holds M) ∧
      (J.err = .ok → i = .input → J.holds (M ++ inputMessage s I)) ∧
      (J.err = .ok → i ≠ .input → J.holds []) := by
  cases ef with
  | raised _ e he =>
    exact ⟨_, State.inst?_commit h _, fun _ => (Inst.holds_iff_of_eq rfl rfl M).mpr hM,
      fun hok => absurd hok he, fun hok => absurd hok he⟩
  | fatal =>
    exact ⟨_, State.inst?_commit h _, fun _ => (Inst.holds_iff_of_eq rfl rfl M).mpr hM, nofun, nofun⟩
  | configured _ a p hi =>
    refine ⟨_, State.inst?_commit h _, fun hne => absurd rfl hne, fun _ hin => ?_,
      fun _ _ => Inst.holds_nil rfl⟩
    subst hin; cases hi
  | input =>
    exact ⟨_, State.inst?_commit h _, fun hne => absurd rfl hne,
      fun _ _ => Inst.holds_append hM rfl rfl, fun _ hne => absurd rfl hne⟩
  | digest _ addr _ _ hi =>
    refine ⟨_, finishDigest_inst? h addr, fun hne => absurd rfl hne, fun _ hin => ?_,
      fun _ _ => Inst.holds_nil rfl⟩
    subst hin; simp at hi
  | reset =>
    exact ⟨_, State.inst?_commit h _, fun hne => absurd rfl hne, nofun, fun _ _ => Inst.holds_nil rfl⟩

/-- Settles O23: by the effect of each command on the message, and since the configuration and the message fix the
engine. -/
theorem messageOfAnInstance : Obligations.MessageOfAnInstance := by
  refine ⟨fun i s t I M h hM he => (effect_of_exec h he).message h hM, fun I J M hI hJ hc => ?_⟩
  rw [Inst.eng_eq_of_holds hI hJ hc, hc]

end Sys2Proof.Machine
end

section
/-! PROOF. Rotations as shifts, and numbers as weighted sums of their bytes (spec/00_scope.md R10, R11). -/

namespace Sys2Proof

theorem leNat_append (xs ys : List Byte) : leNat (xs ++ ys) = leNat xs + 256 ^ xs.length * leNat ys := by
  induction xs with
  | nil => simp [leNat]
  | cons x xs ih => simp only [List.cons_append, leNat, ih, List.length_cons]; ring

theorem leNat_lt (bs : List Byte) : leNat bs < 256 ^ bs.length := by
  induction bs with
  | nil => simp [leNat]
  | cons b bs ih =>
    have := b.isLt
    simp only [leNat, List.length_cons, Nat.pow_succ]
    omega

/-- The byte at place `j` weighs `2 ^ (8 * j)`. -/
theorem leNat_eq_sum (bs : List Byte) :
    leNat bs = ((List.range bs.length).map fun j => 2 ^ (8 * j) * (bs.getD j 0).toNat).sum := by
  induction bs with
  | nil => rfl
  | cons b bs ih =>
    rw [leNat, ih, List.length_cons, List.range_succ_eq_map, List.map_cons, List.map_map, List.sum_cons,
      ← List.sum_map_mul_left]
    simp [Function.comp_def, Nat.pow_mul, Nat.pow_succ, Nat.mul_assoc, Nat.mul_left_comm]

end Sys2Proof

namespace Sys2Proof.Machine

/-! ### Rotations -/

theorem rotl_eq_shifts {N : Nat} (v : BitVec N) {k : Nat} (h : k < N) :
    rotl v k = (v <<< k) ||| (v >>> (N - k)) := by
  rw [rotl, BitVec.rotateLeft_def, Nat.mod_eq_of_lt h]

@[simp] theorem rotl_zero {N : Nat} (v : BitVec N) : rotl v 0 = v := by
  simp [rotl, BitVec.rotateLeft_def, BitVec.ushiftRight_eq_zero]

@[simp] theorem rotr_zero {N : Nat} (v : BitVec N) : rotr v 0 = v := by
  simp [rotr, BitVec.rotateRight_def, BitVec.shiftLeft_eq_zero]

/-- A rotation to the right is one to the left by the rest of the width. -/
theorem rotr_eq_rotl {N : Nat} (v : BitVec N) {k : Nat} (h0 : 0 < k) (h : k < N) : rotr v k = rotl v (N - k) := by
  rw [rotl_eq_shifts v (by omega), rotr, BitVec.rotateRight_def, Nat.mod_eq_of_lt h, BitVec.or_comm,
    Nat.sub_sub_self h.le]

/-! ### Loads -/

theorem length_bytesAt {b : List Byte} {i n : Nat} (h : i + n ≤ b.length) : (bytesAt b i n).length = n := by
  simp only [bytesAt, List.length_take, List.length_drop]
  omega

theorem getD_bytesAt (b : List Byte) (i : Nat) {n j : Nat} (h : j < n) :
    (bytesAt b i n).getD j 0 = b.getD (i + j) 0 := by
  simp [bytesAt, List.getD_eq_getElem?_getD, h]

theorem bytesAt_self {bs : List Byte} {n : Nat} (h : bs.length = n) : bytesAt bs 0 n = bs := by
  simp [bytesAt, ← h]

theorem leNat_bytesAt_lt (b : List Byte) (i n : Nat) : leNat (bytesAt b i n) < 256 ^ n :=
  (leNat_lt _).trans_le (Nat.pow_le_pow_right (by decide) (List.length_take_le _ _))

theorem beNat_cons (b : Byte) (bs : List Byte) : beNat (b :: bs) = 256 ^ bs.length * b.toNat + beNat bs := by
  simp [beNat, leNat_append, leNat, Nat.add_comm]

theorem beNat_lt (bs : List Byte) : beNat bs < 256 ^ bs.length := by
  simpa [beNat] using leNat_lt bs.reverse

theorem beNat_bytesAt_lt (b : List Byte) (i n : Nat) : beNat (bytesAt b i n) < 256 ^ n :=
  (beNat_lt _).trans_le (Nat.pow_le_pow_right (by decide) (List.length_take_le _ _))

/-- The byte at place `j` of `n` weighs `2 ^ (8 * (n - 1 - j))`. -/
theorem beNat_eq_sum (bs : List Byte) :
    beNat bs =
      ((List.range bs.length).map fun j => 2 ^ (8 * (bs.length - 1 - j)) * (bs.getD j 0).toNat).sum := by
  induction bs with
  | nil => rfl
  | cons b bs ih =>
    rw [beNat_cons, ih, List.length_cons, List.range_succ_eq_map, List.map_cons, List.map_map, List.sum_cons]
    simp [Function.comp_def, Nat.pow_mul, Nat.sub_sub, Nat.add_comm]

/-- The bytes of a load inside the sequence, weighed little-endian. -/
theorem leNat_bytesAt {b : List Byte} {i n : Nat} (h : i + n ≤ b.length) :
    leNat (bytesAt b i n) = ((List.range n).map fun j => 2 ^ (8 * j) * (b.getD (i + j) 0).toNat).sum := by
  rw [leNat_eq_sum, length_bytesAt h]
  refine congrArg List.sum (List.map_congr_left fun j hj => ?_)
  rw [getD_bytesAt b i (List.mem_range.mp hj)]

/-- The bytes of a load inside the sequence, weighed big-endian. -/
theorem beNat_bytesAt {b : List Byte} {i n : Nat} (h : i + n ≤ b.length) :
    beNat (bytesAt b i n) =
      ((List.range n).map fun j => 2 ^ (8 * (n - 1 - j)) * (b.getD (i + j) 0).toNat).sum := by
  rw [beNat_eq_sum, length_bytesAt h]
  refine congrArg List.sum (List.map_congr_left fun j hj => ?_)
  rw [getD_bytesAt b i (List.mem_range.mp hj)]

theorem toNat_le32 (b : List Byte) (i : Nat) : (le32 b i).toNat = leNat (bytesAt b i 4) :=
  Nat.mod_eq_of_lt (leNat_bytesAt_lt b i 4)

theorem toNat_be32 (b : List Byte) (i : Nat) : (be32 b i).toNat = beNat (bytesAt b i 4) :=
  Nat.mod_eq_of_lt (beNat_bytesAt_lt b i 4)

theorem toNat_le64 (b : List Byte) (i : Nat) : (le64 b i).toNat = leNat (bytesAt b i 8) :=
  Nat.mod_eq_of_lt (leNat_bytesAt_lt b i 8)

theorem toNat_be64 (b : List Byte) (i : Nat) : (be64 b i).toNat = beNat (bytesAt b i 8) :=
  Nat.mod_eq_of_lt (beNat_bytesAt_lt b i 8)

/-! ### Stores -/

@[simp] theorem length_putBe (n v : Nat) : (putBe n v).length = n := by simp [putBe]

theorem beNat_putBe (n v : Nat) (h : v < 256 ^ n) : beNat (putBe n v) = v := by
  rw [beNat, putBe, List.reverse_reverse, leNat_putLe n v h]

theorem le32_putLe32 (w : Word) : le32 (putLe32 w) 0 = w := by
  rw [le32, putLe32, bytesAt_self (length_putLe ..), leNat_putLe 4 _ w.isLt, BitVec.ofNat_toNat, BitVec.setWidth_eq]

theorem be32_putBe32 (w : Word) : be32 (putBe32 w) 0 = w := by
  rw [be32, putBe32, bytesAt_self (length_putBe ..), beNat_putBe 4 _ w.isLt, BitVec.ofNat_toNat, BitVec.setWidth_eq]

theorem le64_putLe64 (v : Lane) : le64 (putLe64 v) 0 = v := by
  rw [le64, putLe64, bytesAt_self (length_putLe ..), leNat_putLe 8 _ v.isLt, BitVec.ofNat_toNat, BitVec.setWidth_eq]

theorem be64_putBe64 (v : Lane) : be64 (putBe64 v) 0 = v := by
  rw [be64, putBe64, bytesAt_self (length_putBe ..), beNat_putBe 8 _ v.isLt, BitVec.ofNat_toNat, BitVec.setWidth_eq]

/-- Settles O43: rotations by their shifts, loads by the weights of their bytes, and stores as what loads undo. -/
theorem rotationsAndByteOrder : Obligations.RotationsAndByteOrder := by
  refine ⟨fun w => ⟨rotl_zero w, rotr_zero w⟩, fun v => ⟨rotl_zero v, rotr_zero v⟩,
    fun w k h0 h => ⟨rotl_eq_shifts w h, rotr_eq_rotl w h0 h⟩,
    fun v k h0 h => ⟨rotl_eq_shifts v h, rotr_eq_rotl v h0 h⟩,
    fun b i h => ⟨?le32, ?be32⟩,
    fun b i h => ⟨(toNat_le64 b i).trans (leNat_bytesAt h), (toNat_be64 b i).trans (beNat_bytesAt h)⟩,
    fun w => ⟨length_putLe .., le32_putLe32 w, length_putBe .., be32_putBe32 w⟩,
    fun v => ⟨length_putLe .., le64_putLe64 v, length_putBe .., be64_putBe64 v⟩,
    fun c => ⟨length_putBe .., ?put16⟩⟩
  case le32 =>
    rw [toNat_le32, leNat_bytesAt h]
    simp [List.range_succ, Nat.add_assoc]
  case be32 =>
    rw [toNat_be32, beNat_bytesAt h]
    simp [List.range_succ, Nat.add_assoc]
  case put16 =>
    have hsum := beNat_eq_sum (putBe 16 c.toNat)
    rw [length_putBe, beNat_putBe 16 _ c.isLt] at hsum
    exact hsum.symm

end Sys2Proof.Machine
end

section
/-! PROOF. The buffer of the engine (spec/10_state.md R40, 40_buffering_engine.md R124): storing a byte either keeps
the offset below BLK or hands over a whole block, so no byte is lost. -/

namespace Sys2Proof.Machine

/-- Every row of 00_scope.md R8 has a block that is not empty and fits the buffer. -/
theorem Cfg.blk_of_ok {c : Cfg} (h : c.ok = true) : 0 < c.blk.toNat ∧ c.blk.toNat ≤ 168 := by
  have hb : c.blk ∈ [(16 : BitVec 8), 64, 72, 104, 128, 136, 144, 168] := by
    unfold Cfg.ok at h
    split at h <;> grind
  revert hb
  generalize c.blk = n
  revert n
  decide

/-! ### One byte -/

theorem toNat_off_add_one {e : Engine} (h : e.off.toNat < 168) : (e.off + 1).toNat = e.off.toNat + 1 := by
  rw [BitVec.toNat_add]
  simp
  omega

section absorbByte
variable {c : Cfg} {e : Engine} (b : Byte)

theorem absorbByte_of_full (h : (storeByte e b).off = c.blk) :
    absorbByte c e b =
      { transformBlock c (storeByte e b) (bufferBlock c (storeByte e b)) with off := 0 } := by
  rw [absorbByte, drainBuffer, if_pos h]

theorem absorbByte_of_not_full (h : (storeByte e b).off ≠ c.blk) : absorbByte c e b = storeByte e b := by
  rw [absorbByte, drainBuffer, if_neg h]

/-- The block a full buffer hands over is the partial block with the byte stored last. -/
theorem bufferBlock_of_full (ho : e.off.toNat < 168) (h : (storeByte e b).off = c.blk) :
    bufferBlock c (storeByte e b) = partialBlock e ++ [b] := by
  rw [← partialBlock_storeByte ho, bufferBlock, partialBlock, h]

theorem off_absorbByte_lt (hblk : c.blk.toNat ≤ 168) (ho : e.off.toNat < c.blk.toNat) :
    (absorbByte c e b).off.toNat < c.blk.toNat := by
  have hadd := toNat_off_add_one (ho.trans_le hblk)
  by_cases h : (storeByte e b).off = c.blk
  · rw [absorbByte_of_full b h]
    exact Nat.zero_lt_of_lt ho
  · rw [absorbByte_of_not_full b h]
    have hne : (e.off + 1).toNat ≠ c.blk.toNat := fun heq => h (BitVec.eq_of_toNat_eq heq)
    simp only [storeByte_off]
    omega

end absorbByte

/-! ### The loop -/

section loop
variable {c : Cfg} (hblk : c.blk.toNat ≤ 168) (bs : List Byte)
include hblk

theorem off_absorbBytes_lt : ∀ {e : Engine}, e.off.toNat < c.blk.toNat →
    (absorbBytes c e bs).off.toNat < c.blk.toNat := by
  induction bs with
  | nil => exact id
  | cons b bs ih => exact fun ho => ih (off_absorbByte_lt b hblk ho)

/-- No byte is lost: what is handed over, then the partial block, is the old partial block, then the bytes. -/
theorem absorbTrace_flatten_append_partialBlock : ∀ {e : Engine}, e.off.toNat < c.blk.toNat →
    (absorbTrace c e bs).flatten ++ partialBlock (absorbBytes c e bs) = partialBlock e ++ bs := by
  induction bs with
  | nil => simp [absorbTrace]
  | cons b bs ih =>
    intro e ho
    have ih := ih (off_absorbByte_lt b hblk ho)
    rw [absorbTrace, List.flatten_append, absorbBytes_cons, List.append_assoc, ih]
    by_cases h : (storeByte e b).off = c.blk
    · have hempty : partialBlock (absorbByte c e b) = [] := by simp [absorbByte_of_full b h, partialBlock]
      rw [if_pos h, hempty, bufferBlock_of_full b (ho.trans_le hblk) h]
      simp
    · rw [if_neg h, absorbByte_of_not_full b h, partialBlock_storeByte (ho.trans_le hblk)]
      simp

/-- Every block handed over is a whole one. -/
theorem length_of_mem_absorbTrace : ∀ {e : Engine}, e.off.toNat < c.blk.toNat →
    ∀ B ∈ absorbTrace c e bs, B.length = c.blk.toNat := by
  induction bs with
  | nil => intro e _ B hB; cases hB
  | cons b bs ih =>
    intro e ho B hB
    rcases List.mem_append.mp hB with hB | hB
    · have hsize : (bufferBlock c (storeByte e b)).length = c.blk.toNat := by simp [bufferBlock, hblk]
      split at hB
      · rw [List.mem_singleton.mp hB, hsize]
      · cases hB
    · exact ih (off_absorbByte_lt b hblk ho) B hB

end loop

theorem length_of_mem_absorbTrace_freshEngine {c : Cfg} (hok : c.ok = true) (M : List Byte) :
    ∀ B ∈ absorbTrace c (freshEngine c) M, B.length = c.blk.toNat := by
  obtain ⟨hpos, hblk⟩ := Cfg.blk_of_ok hok
  exact length_of_mem_absorbTrace hblk M (by simpa using hpos)

/-! ### The engine of an instance that holds a message -/

@[simp] theorem inputBytes_off (c : Cfg) (e : Engine) (bs : List Byte) :
    (inputBytes c e bs).off = (absorbBytes c e bs).off := rfl

@[simp] theorem inputBytes_len (c : Cfg) (e : Engine) (bs : List Byte) :
    (inputBytes c e bs).len = e.len + BitVec.ofNat 128 (8 * bs.length) := by simp [inputBytes]

@[simp] theorem partialBlock_inputBytes (c : Cfg) (e : Engine) (bs : List Byte) :
    partialBlock (inputBytes c e bs) = partialBlock (absorbBytes c e bs) := rfl

@[simp] theorem partialBlock_freshEngine (c : Cfg) : partialBlock (freshEngine c) = [] := by
  simp [partialBlock]

section holds
variable {I : Inst} {M : List Byte} (hM : I.holds M)
include hM

theorem Inst.holds.len_eq : I.eng.len = BitVec.ofNat 128 (8 * M.length) := by
  rw [hM]
  simp

variable (hok : I.cfg.ok = true)
include hok

theorem Inst.holds.off_lt : I.eng.off.toNat < I.cfg.blk.toNat := by
  obtain ⟨hpos, hblk⟩ := Cfg.blk_of_ok hok
  rw [hM, inputBytes_off]
  exact off_absorbBytes_lt hblk M (by simpa using hpos)

/-- The message is the blocks handed over, then the partial block. -/
theorem Inst.holds.message_eq :
    (absorbTrace I.cfg (freshEngine I.cfg) M).flatten ++ partialBlock I.eng = M := by
  obtain ⟨hpos, hblk⟩ := Cfg.blk_of_ok hok
  rw [hM, partialBlock_inputBytes,
    absorbTrace_flatten_append_partialBlock hblk M (by simpa using hpos), partialBlock_freshEngine,
    List.nil_append]

/-- The message split where the partial block begins. -/
theorem Inst.holds.split_message :
    (absorbTrace I.cfg (freshEngine I.cfg) M).flatten = M.take (M.length - I.eng.off.toNat) ∧
      partialBlock I.eng = M.drop (M.length - I.eng.off.toNat) := by
  have hlen := length_partialBlock ((hM.off_lt hok).le.trans (Cfg.blk_of_ok hok).2)
  have heq := hM.message_eq hok
  have hle := congrArg List.length heq
  rw [List.length_append] at hle
  refine List.append_inj' (heq.trans (List.take_append_drop _ M).symm) ?_
  rw [List.length_drop]
  omega

end holds

/-! ### What the block hook keeps, message by message -/

/-- Apart from the buffer, the engine is the fresh one after the blocks handed over. -/
theorem Inst.holds.eng_eq_fold {I : Inst} {M : List Byte} (hM : I.holds M) :
    I.eng = ((absorbTrace I.cfg (freshEngine I.cfg) M).foldl (transformBlock I.cfg)
      (freshEngine I.cfg)).setBuffer I.eng.buf I.eng.off I.eng.len := by
  have h := absorbBytes_fold I.cfg M (freshEngine I.cfg) (freshEngine I.cfg).buf (freshEngine I.cfg).off
    (freshEngine I.cfg).len
  rw [Engine.setBuffer_self] at h
  rw [← h, hM]
  rfl

/-- What a fresh engine has, what the block hook keeps and what the buffer does not touch holds of every engine that
holds a message. -/
theorem Inst.holds.induction {I : Inst} {M : List Byte} (hM : I.holds M) {P : Engine → Prop}
    (hfresh : P (freshEngine I.cfg)) (hblock : ∀ e B, P e → P (transformBlock I.cfg e B))
    (hbuf : ∀ e buf off len, P e → P (e.setBuffer buf off len)) : P I.eng := by
  rw [hM.eng_eq_fold]
  exact hbuf _ _ _ _ (List.foldlRecOn _ _ hfresh fun e he B _ => hblock e B he)

/-! ### BLAKE2b's pending flag -/

theorem pend_transformBlock {c : Cfg} (hc : c.alg = some .blake2b) (e : Engine) (B : List Byte) :
    (transformBlock c e B).pend = true := by
  simp [transformBlock, hc, blakeTransformBlock]

theorem pend_foldl_transformBlock {c : Cfg} (hc : c.alg = some .blake2b) (Bs : List (List Byte)) :
    ∀ e : Engine, (Bs.foldl (transformBlock c) e).pend = true ↔ e.pend = true ∨ Bs ≠ [] := by
  induction Bs with
  | nil => simp
  | cons B Bs ih => simp [ih, pend_transformBlock hc]

/-- Reset() leaves a block pending exactly when there is a key (47_blake2b.md R341). -/
theorem pend_freshEngine {c : Cfg} (hc : c.alg = some .blake2b) :
    (freshEngine c).pend = true ↔ 0 < c.keyLen.toNat := by
  unfold freshEngine resetState
  simp only [hc, blakeResetState]
  split <;> simp_all [blakeTransformBlock, blakeInit]

theorem Inst.holds.pend_iff {I : Inst} {M : List Byte} (hM : I.holds M) (hc : I.cfg.alg = some .blake2b) :
    I.eng.pend = true ↔ 0 < I.cfg.keyLen.toNat ∨ absorbTrace I.cfg (freshEngine I.cfg) M ≠ [] := by
  rw [← pend_freshEngine hc, ← pend_foldl_transformBlock hc, ← congrArg Engine.pend hM.eng_eq_fold.symm]
  rfl

end Sys2Proof.Machine
end

section
/-! PROOF. Every step keeps the invariant of the machine (spec/10_state.md R40, 60_exceptions.md R375,
70_reset_and_hazards.md R401). -/

namespace Sys2Proof.Machine

/-! ### The configurations CONFIGURE writes -/

@[simp] theorem padVec_nil (n : Nat) : padVec n [] = Vector.replicate n 0 := by
  ext i hi
  simp [padVec]

/-- A key is zero-padded above its length (10_state.md R29). -/
theorem drop_toList_padVec (n : Nat) (bs : List Byte) :
    ∀ b ∈ (padVec n bs).toList.drop bs.length, b = 0 := by
  intro b hb
  obtain ⟨i, hi, rfl⟩ := List.mem_iff_getElem.mp hb
  simp [padVec]

section cfgOf
variable (a : Alg) (p : Params) (key : List Byte)
@[simp] theorem cfgOf_alg : (cfgOf a p key).alg = some a := rfl
@[simp] theorem cfgOf_dsz : (cfgOf a p key).dsz = BitVec.ofNat 16 p.dsz := rfl
@[simp] theorem cfgOf_dlen : (cfgOf a p key).dlen = BitVec.ofNat 64 p.dlen := rfl
@[simp] theorem cfgOf_blk : (cfgOf a p key).blk = BitVec.ofNat 8 p.blk := rfl
end cfgOf

theorem noKey_cfgOf (a : Alg) (p : Params) : (cfgOf a p []).noKey = true := by
  simp [cfgOf, Cfg.noKey]

theorem keyPadded_cfgOf (a : Alg) (p : Params) {key : List Byte} (h : key.length ≤ 64) :
    (cfgOf a p key).keyPadded = true := by
  have hlen : (BitVec.ofNat 7 key.length).toNat = key.length := by
    simp
    omega
  simp only [Cfg.keyPadded, cfgOf, hlen, Bool.and_eq_true, decide_eq_true_eq, List.all_eq_true]
  exact ⟨h, drop_toList_padVec 64 key⟩

/-- The parameters that `Params` accepts, with a key as long as BLAKE2b's ARG2 says, are those of a row. -/
theorem Cfg.ok_cfgOf {a : Alg} {a0 a2 : Int} {p : Params} {key : List Byte} (hp : paramsOf a a0 a2 = some p)
    (h0 : a0 < 2 ^ 63) (hkey : key.length = if a = .blake2b then a2.toNat else 0) :
    (cfgOf a p key).ok = true := by
  have hnoKey : a ≠ .blake2b → ∀ q, (cfgOf a q key).noKey = true := by
    intro ha q
    rw [if_neg ha, List.length_eq_zero_iff] at hkey
    rw [hkey, noKey_cfgOf]
  unfold Cfg.ok
  cases a with
  | sha2_256 =>
    obtain ⟨rfl | rfl, ⟨⟩⟩ : (a0 = 224 ∨ a0 = 256) ∧ _ := Option.ite_none_right_eq_some.mp hp <;>
      simp [hnoKey]
  | sha2_512 | sha3 =>
    obtain ⟨rfl | rfl | rfl | rfl, ⟨⟩⟩ :
        (a0 = 224 ∨ a0 = 256 ∨ a0 = 384 ∨ a0 = 512) ∧ _ := Option.ite_none_right_eq_some.mp hp <;>
      simp [hnoKey, sha3Rate]
  | shake128 | shake256 =>
    obtain ⟨hpos, ⟨⟩⟩ : 0 ≤ a0 ∧ _ := Option.ite_none_right_eq_some.mp hp
    simp [hnoKey]
    omega
  | blake2b =>
    obtain ⟨hsize, ⟨⟩⟩ : (1 ≤ a0 ∧ a0 ≤ 64 ∧ 0 ≤ a2 ∧ a2 ≤ 64) ∧ _ := Option.ite_none_right_eq_some.mp hp
    have hlen : key.length ≤ 64 := by
      rw [hkey, if_pos rfl]
      omega
    simp [keyPadded_cfgOf _ _ hlen]
    omega
  | _ =>
    cases hp
    simp [hnoKey]

@[simp] theorem length_keyBytes (a : Alg) (s : State) (I : Inst) :
    (keyBytes a s I).length = if a = .blake2b then I.arg2.toInt.toNat else 0 := by
  unfold keyBytes Inst.argInt2
  split <;> simp

/-! ### The length of a digest -/

theorem length_squeezeLoop_le (rate fuel : Nat) : ∀ (A : Lanes) (n : Nat),
    (squeezeLoop rate fuel A n).length ≤ n := by
  induction fuel with
  | zero =>
    intro A n
    simp [squeezeLoop]
  | succ fuel ih =>
    intro A n
    simp only [squeezeLoop, List.length_append, List.length_take]
    split
    · simp
    · have := ih (keccakF A) (n - rate)
      omega

/-- A digest is no longer than DLEN (40_buffering_engine.md R131), so it stays inside the region checked for it. -/
theorem length_digestBytes_le {c : Cfg} (hok : c.ok = true) (e : Engine) :
    (digestBytes c e).length ≤ c.dlen.toNat := by
  unfold digestBytes transformFinal
  cases halg : c.alg with
  | none => simp
  | some a =>
    cases a with
    | md2 =>
      have hdlen : c.dlen = 16 := by simp_all [Cfg.ok]
      simp [md2Final, hdlen]
    | sha3 | shake128 | shake256 => exact length_squeezeLoop_le _ _ _ _
    | _ => exact List.length_take_le _ _

/-! ### The invariant of an instance -/

theorem Inst.inv_zero : Inst.zero.Inv :=
  ⟨rfl, by decide, fun _ => ⟨rfl, rfl⟩, nofun⟩

/-- The invariant of an instance speaks of its configuration, its engine and its flags only. -/
theorem Inst.Inv.congr {I J : Inst} (hI : I.Inv) (hf : J.fatal = I.fatal) (herr : J.err ≠ .internalInvariant)
    (hc : J.configured = I.configured) (hcfg : J.cfg = I.cfg) (heng : J.eng = I.eng) : J.Inv := by
  obtain ⟨hfatal, -, hun, hcon⟩ := hI
  simp only [Inst.Inv, Inst.holds_iff_of_eq hcfg heng, hf, hc, hcfg, heng]
  exact ⟨hfatal, herr, hun, hcon⟩

theorem Inst.Inv.withErr {I : Inst} (hI : I.Inv) {e : ErrCode} (he : e ≠ .internalInvariant) :
    (I.withErr e).Inv := hI.congr rfl he rfl rfl rfl

/-- A configured instance of the table that holds a message meets the invariant. -/
theorem Inst.inv_of_holds {J : Inst} {M : List Byte} (hf : J.fatal = false) (herr : J.err ≠ .internalInvariant)
    (hc : J.configured = true) (hok : J.cfg.ok = true) (hM : J.holds M) : J.Inv :=
  ⟨hf, herr, fun hun => absurd (hc.symm.trans hun) (by decide), fun _ => ⟨hok, M, hM⟩⟩

/-- A write of a window slot reaches an ARG register at most. -/
theorem Inst.writeSlot_eq_args (I : Inst) (offset : BitVec 8) (v : Lane) : ∃ a0 a1 a2 a3,
    I.writeSlot offset v = { I with arg0 := a0, arg1 := a1, arg2 := a2, arg3 := a3 } := by
  unfold Inst.writeSlot
  split <;> exact ⟨_, _, _, _, rfl⟩

theorem Inst.Inv.writeSlot {I : Inst} (hI : I.Inv) (offset : BitVec 8) (v : Lane) :
    (I.writeSlot offset v).Inv := by
  obtain ⟨a0, a1, a2, a3, heq⟩ := I.writeSlot_eq_args offset v
  have ⟨_, herr, _, _⟩ := hI
  rw [heq]
  exact hI.congr rfl herr rfl rfl rfl

/-! ### The invariant of the machine -/

namespace State.Inv
variable {s : State} (hs : s.Inv)
include hs

theorem inst {k : Nat} {I : Inst} (h : s.instances[k]? = some I) : I.Inv := by
  obtain ⟨-, -, -, hall⟩ := hs
  exact hall I (List.mem_of_getElem? h)

theorem setInst {J : Inst} (hJ : J.Inv) (k : Nat) : State.Inv { s with instances := s.instances.set k J } := by
  obtain ⟨hwf, hbelow, hne, hall⟩ := hs
  refine ⟨hwf, hbelow, by simpa using hne, fun K hK => ?_⟩
  rcases List.mem_or_eq_of_mem_set hK with hK | rfl
  · exact hall K hK
  · exact hJ

theorem commit {J : Inst} (hJ : J.Inv) : (s.commit J).Inv := hs.setInst hJ s.sel

theorem writeBytes {bs : List Byte} {a : Nat} (h : a + bs.length ≤ (s.hmSize : Nat)) :
    State.Inv { s with hm := s.hm.writeBytes a bs } := by
  obtain ⟨hwf, hbelow, hne, hall⟩ := hs
  exact ⟨Memory.wf_writeBytes bs _ a hwf, Memory.below_writeBytes _ bs _ a hbelow h, hne, hall⟩

end State.Inv

/-- Every effect of a command keeps the invariant. -/
theorem Effect.inv {i : Instr} {s t : State} {I : Inst} (ef : Effect s I i t) (h : s.inst? = some I)
    (hs : s.Inv) : t.Inv := by
  have hI : I.Inv := hs.inst h
  have ⟨hfatal, _, _, hcon⟩ := hI
  cases ef with
  | raised _ e _ he =>
    exact hs.commit (hI.withErr fun heq => absurd (he heq) (by simp [hfatal]))
  | fatal _ _ _ hc ho =>
    obtain ⟨hok, M, hM⟩ := hcon hc
    exact absurd (hM.off_lt hok) ho
  | configured _ a p _ _ hp =>
    have hok := Cfg.ok_cfgOf hp BitVec.toInt_lt (length_keyBytes a s I)
    exact hs.commit (Inst.inv_of_holds hfatal nofun rfl hok (Inst.holds_nil rfl))
  | input _ hc =>
    obtain ⟨hok, M, hM⟩ := hcon hc
    exact hs.commit (Inst.inv_of_holds hfatal nofun hc hok (Inst.holds_append hM rfl rfl))
  | digest _ addr _ hc _ hr =>
    obtain ⟨hok, -⟩ := hcon hc
    have hlen := length_digestBytes_le hok I.eng
    exact (hs.writeBytes (by omega)).commit (Inst.inv_of_holds hfatal nofun hc hok (Inst.holds_nil rfl))
  | reset _ hc =>
    obtain ⟨hok, -⟩ := hcon hc
    exact hs.commit (Inst.inv_of_holds hfatal nofun hc hok (Inst.holds_nil rfl))

/-! ### A step -/

theorem step_of_access {s : State} {a : HostAccess} {rest : List HostAccess} (hp : s.program = a :: rest)
    (ha : commandOf a = none) : step s = hostAccess a { s with program := rest } := by
  simp [step, hp, ha]

theorem step_of_command {s : State} {a : HostAccess} {rest : List HostAccess} {k : Nat} {v : Lane}
    (hp : s.program = a :: rest) (ha : commandOf a = some (k, v)) :
    step s = execValue v ({ s with program := rest }.select k) := by
  simp [step, hp, ha]

/-- What a CMD value that has a next state does: the effect of the command it decodes to, or an error alone. -/
theorem execValue_cases {v : Lane} {s t : State} (he : execValue v s = .next t) :
    ∃ I, s.inst? = some I ∧ ((∃ i, decode v = .ok i ∧ Effect s I i t) ∨
      ∃ e, (e = .internalInvariant → I.fatal = true) ∧ t = s.commit (I.withErr e)) := by
  unfold execValue illegalCommand at he
  cases hI : s.inst? with
  | none =>
    split at he
    · simp [exec_none hI] at he
    · simp [issue_none hI] at he
  | some I =>
    refine ⟨I, rfl, ?_⟩
    split at he
    case h_1 i hv => exact .inl ⟨i, hv, effect_of_exec hI he⟩
    case h_2 =>
      rw [issue_some hI] at he
      split at he <;> cases he
      case isTrue hf => exact .inr ⟨.internalInvariant, fun _ => hf, rfl⟩
      case isFalse => exact .inr ⟨.illegalCommand, nofun, rfl⟩

theorem execValue_inv {v : Lane} {s t : State} (hs : s.Inv) (he : execValue v s = .next t) : t.Inv := by
  obtain ⟨I, hI, ⟨i, -, ef⟩ | ⟨e, hfatal, rfl⟩⟩ := execValue_cases he
  · exact ef.inv hI hs
  · have hinv : I.Inv := hs.inst hI
    have ⟨hclear, _, _, _⟩ := hinv
    exact hs.commit (hinv.withErr fun heq => absurd (hfatal heq) (by simp [hclear]))

/-- Every access of the host that is no command keeps the invariant. -/
theorem hostAccess_inv {a : HostAccess} {s t : State} (hs : s.Inv) (he : hostAccess a s = .next t) : t.Inv := by
  cases a with
  | regWrite k offset width v =>
    simp only [hostAccess, registerWrite] at he
    split at he
    · cases he
    · split at he <;> cases he
      case h_2 I hI => exact hs.setInst ((hs.inst hI).writeSlot offset v) k
  | regRead k offset width =>
    simp only [hostAccess, registerRead] at he
    split at he
    · cases he
    · split at he <;> cases he
      exact hs
  | hmStore addr v =>
    simp only [hostAccess, hostStore] at he
    split at he <;> cases he
    next haddr => exact hs.writeBytes (bs := [v]) haddr
  | hmLoad addr =>
    simp only [hostAccess, hostLoad] at he
    split at he <;> cases he
    exact hs
  | hardwareReset =>
    cases he
    obtain ⟨hwf, hbelow, hne, -⟩ := hs
    refine ⟨hwf, hbelow, by simpa using hne, fun J hJ => ?_⟩
    obtain ⟨-, -, rfl⟩ := List.mem_map.mp hJ
    exact Inst.inv_zero

/-- Settles O7: by what the next access is, a command by its effect and any other access by its kind. -/
theorem stepKeepsInvariant : Obligations.StepKeepsInvariant := by
  intro s t hs he
  cases hp : s.program with
  | nil =>
    rw [step, hp] at he
    cases he
    exact hs
  | cons a rest =>
    cases ha : commandOf a with
    | none =>
      rw [step_of_access hp ha] at he
      exact hostAccess_inv (s := { s with program := rest }) hs he
    | some c =>
      obtain ⟨k, v⟩ := c
      rw [step_of_command hp ha] at he
      exact execValue_inv (s := { s with program := rest, sel := k }) hs he

/-- Settles O24: every configured instance of the next state holds a message, and what the engine has absorbed is
that message, cut where the partial block begins. -/
theorem bufferInvariants : Obligations.BufferInvariants := by
  intro s t hs he J hJ hc
  obtain ⟨-, -, -, hall⟩ := stepKeepsInvariant s t hs he
  obtain ⟨-, -, -, hcon⟩ := hall J hJ
  obtain ⟨hok, hex⟩ := hcon hc
  refine ⟨hex, fun M hM => ?_⟩
  obtain ⟨htake, hdrop⟩ := hM.split_message hok
  exact ⟨hM.off_lt hok, hM.len_eq, htake, length_of_mem_absorbTrace_freshEngine hok M, hdrop, hM.pend_iff⟩

end Sys2Proof.Machine
end

section
/-! PROOF. What a command leaves unchanged (spec/10_state.md R24, R26, R29, R37, 20_memory.md R66, 60_exceptions.md
R384). -/

namespace Sys2Proof.Machine

namespace Effect
variable {i : Instr} {s t : State} {I J : Inst} (ef : Effect s I i t)
include ef

/-- A command writes its own instance, and HM in a digest only. -/
theorem eq_commit : ∃ m K, t = { s with hm := m }.commit K ∧ (i ≠ .digest → i ≠ .digest0 → m = s.hm) := by
  cases ef with
  | digest _ addr _ _ hi =>
    refine ⟨_, _, rfl, fun hd hd0 => ?_⟩
    rcases hi with ⟨rfl, -⟩ | ⟨rfl, -⟩
    · exact absurd rfl hd
    · exact absurd rfl hd0
  | _ => exact ⟨s.hm, _, rfl, fun _ _ => rfl⟩

variable (h : s.inst? = some I) (hJ : t.inst? = some J)
include h hJ

/-- What the selected instance keeps. -/
theorem inst_frame :
    (J.arg0 = I.arg0 ∧ J.arg1 = I.arg1 ∧ J.arg2 = I.arg2 ∧ J.arg3 = I.arg3) ∧
    (i.isConfigure = false ∨ J.err ≠ .ok → J.cfg = I.cfg ∧ J.configured = I.configured) ∧
    ((i ≠ .digest ∧ i ≠ .digest0) ∨ J.err ≠ .ok → J.result = I.result) ∧
    (i ≠ .digest → i ≠ .digest0 → J.fatal = I.fatal) ∧
    (J.err ≠ .ok → J.eng = I.eng) := by
  cases ef with
  | raised =>
    cases (State.inst?_commit h _).symm.trans hJ
    simp
  | fatal _ hi =>
    cases (State.inst?_commit h _).symm.trans hJ
    refine ⟨by simp, by simp, by simp, fun hd hd0 => ?_, by simp⟩
    exact absurd hi (by simp [hd, hd0])
  | configured _ a p hi =>
    cases (State.inst?_commit h _).symm.trans hJ
    simp [isConfigure_of_alg hi]
  | input =>
    cases (State.inst?_commit h _).symm.trans hJ
    simp
  | digest _ addr _ _ hi =>
    cases (finishDigest_inst? h addr).symm.trans hJ
    refine ⟨by simp, by simp, fun hr => ?_, by simp, by simp⟩
    rcases hi with ⟨rfl, -⟩ | ⟨rfl, -⟩ <;> simp at hr
  | reset =>
    cases (State.inst?_commit h _).symm.trans hJ
    simp

/-- A successful digest leaves ARG0 in RESULT. -/
theorem result_of_digest (hi : i = .digest ∨ i = .digest0) (hok : J.err = .ok) : J.result = I.arg0 := by
  cases ef with
  | raised _ e he =>
    cases (State.inst?_commit h _).symm.trans hJ
    exact absurd hok he
  | fatal =>
    cases (State.inst?_commit h _).symm.trans hJ
    cases hok
  | configured _ a p ha =>
    rcases hi with rfl | rfl <;> cases ha
  | digest _ addr =>
    cases (finishDigest_inst? h addr).symm.trans hJ
    rfl
  | input | reset => simp at hi

end Effect

/-- Settles O33: the shared state by the form of every effect, the selected instance by its frame. -/
theorem commandFrame : Obligations.CommandFrame := by
  intro i s t I J h he hJ
  have ef := effect_of_exec h he
  obtain ⟨⟨h0, h1, h2, h3⟩, hcfg, hresult, hfatal, heng⟩ := ef.inst_frame h hJ
  obtain ⟨m, K, rfl, hm⟩ := ef.eq_commit
  refine ⟨rfl, rfl, rfl, rfl, State.length_commit _ _, fun k hk => State.commit_other _ _ hk, h0, h1, h2, h3,
    hcfg, hresult, hfatal, heng, fun hd hd0 a => ?_⟩
  simp [hm hd hd0]

/-- Settles O34: a successful digest writes ARG0, and the frame keeps RESULT otherwise. -/
theorem resultRegister : Obligations.ResultRegister := by
  intro i s t I J h he hJ
  have ef := effect_of_exec h he
  obtain ⟨-, -, hresult, -, -⟩ := ef.inst_frame h hJ
  refine ⟨fun hd => ef.result_of_digest h hJ hd.1 hd.2, fun hd => hresult ?_⟩
  tauto

end Sys2Proof.Machine
end

section
/-! PROOF. The register window (spec/10_state.md R22 to R28). -/

namespace Sys2Proof.Machine

/-! ### Addresses -/

/-- Settles O42: division by the stride takes an address of a window apart. -/
theorem windowAddresses : Obligations.WindowAddresses := by
  intro base k offset addr
  have hlt := offset.isLt
  unfold windowOf
  constructor
  · intro h
    split at h <;> cases h
    simp only [BitVec.toNat_ofNat, Config.windowStride]
    omega
  · rintro rfl
    rw [if_pos (by omega), show base + 0x100 * k + offset.toNat - base = offset.toNat + 0x100 * k by omega,
      Nat.add_mul_div_left _ _ (by decide), Nat.add_mul_mod_self_left, Nat.div_eq_of_lt hlt, Nat.mod_eq_of_lt hlt]
    simp

/-! ### STATUS and the views -/

theorem Inst.toNat_status (I : Inst) :
    I.status.toNat = I.err.code.toNat + 256 * I.configured.toNat + 512 * I.fatal.toNat := by
  unfold Inst.status
  cases I.err <;> cases I.configured <;> cases I.fatal <;> rfl

/-- Settles O37: over the codes and the flags. -/
theorem statusLayout : Obligations.StatusLayout := by
  refine fun I => ⟨I.toNat_status, ?_⟩
  cases I.err <;> decide

theorem Inst.toNat_algr (I : Inst) : I.algr.toNat = I.cfg.algCode.toNat := by
  simp only [Inst.algr, BitVec.toNat_setWidth]
  omega

theorem Inst.toNat_blkr (I : Inst) : I.blkr.toNat = I.cfg.blk.toNat := by
  simp only [Inst.blkr, BitVec.toNat_setWidth]
  omega

theorem Alg.code_bounds (a : Alg) : 1 ≤ a.code.toNat ∧ a.code.toNat ≤ 12 := by
  cases a <;> decide

/-- Settles O40: the views read the configuration, which is all zero on an unconfigured instance. -/
theorem viewRegisters : Obligations.ViewRegisters := by
  refine fun I => ⟨rfl, I.toNat_blkr, fun a ha => ?_, fun hI hc => ?_⟩
  · have hcode : I.algr.toNat = a.code.toNat := by rw [I.toNat_algr, Cfg.algCode, ha]
    exact ⟨hcode, hcode ▸ Alg.code_bounds a⟩
  · obtain ⟨-, -, hun, -⟩ := hI
    obtain ⟨hcfg, -⟩ := hun hc
    simp [Inst.dlenr, Inst.blkr, Inst.algr, Cfg.algCode, hcfg, Cfg.zero]

/-! ### Accesses of the window -/

theorem aligned64_iff (offset : BitVec 8) (width : Nat) :
    aligned64 offset width = true ↔ width = 8 ∧ offset.toNat % 8 = 0 := by simp [aligned64]

theorem Inst.writeSlot_of_readOnly (I : Inst) {offset : BitVec 8} (h : 0x28 ≤ offset.toNat) (v : Lane) :
    I.writeSlot offset v = I := by
  unfold Inst.writeSlot
  split
  case h_5 => rfl
  all_goals omega

theorem Inst.readSlot_of_reserved (I : Inst) {offset : BitVec 8} (h : offset.toNat = 0 ∨ 0x50 ≤ offset.toNat) :
    I.readSlot offset = 0 := by
  unfold Inst.readSlot
  split
  case h_10 => rfl
  all_goals omega

section access
variable {s : State} {rest : List HostAccess} {k : Nat} {offset : BitVec 8} {width : Nat} {v : Lane} {I : Inst}

/-- An access of a register that is not an aligned 64-bit one is refused (R28). -/
theorem step_register_unaligned (h : aligned64 offset width = false) :
    step { s with program := .regWrite k offset width v :: rest } = .refused .notAligned64 ∧
      step { s with program := .regRead k offset width :: rest } = .refused .notAligned64 := by
  constructor
  · rw [step_of_access rfl (by simp [commandOf, h])]
    simp [hostAccess, registerWrite, h]
  · rw [step_of_access rfl rfl]
    simp [hostAccess, registerRead, h]

variable (hI : s.instances[k]? = some I) (h : aligned64 offset width = true)
include hI h

theorem step_regRead : step { s with program := .regRead k offset width :: rest } =
    .next { s with program := rest, readData := I.readSlot offset } := by
  rw [step_of_access rfl rfl]
  simp [hostAccess, registerRead, h, hI]

theorem step_regWrite (hcmd : offset ≠ cmdOffset) :
    step { s with program := .regWrite k offset width v :: rest } =
      .next { s with program := rest, instances := s.instances.set k (I.writeSlot offset v) } := by
  rw [step_of_access rfl (by simp [commandOf, hcmd])]
  simp [hostAccess, registerWrite, h, hI]

end access

/-- Settles O38: by the alignment of the access, and by its slot. -/
theorem windowAccessRules : Obligations.WindowAccessRules := by
  intro s rest k offset width v I hI
  refine ⟨fun hun => step_register_unaligned ?_, fun hw ho => ?_⟩
  · simpa [aligned64, imp_iff_not_or] using hun
  · have hal := (aligned64_iff offset width).mpr ⟨hw, ho⟩
    refine ⟨fun hro => ?_, fun hres => ?_⟩
    · have hcmd : offset ≠ cmdOffset := by
        rintro rfl
        exact absurd hro (by decide)
      have hself : s.instances.set k I = s.instances :=
        congrArg State.instances (State.commit_self (s := s.select k) hI)
      rw [step_regWrite hI hal hcmd, I.writeSlot_of_readOnly hro, hself]
    · rw [step_regRead hI hal, I.readSlot_of_reserved hres]

/-- Settles O39: each slot of the table in turn. -/
theorem registerSlots : Obligations.RegisterSlots := by
  refine fun s rest k I v hI => ⟨fun offset x hx => ?_, fun offset J hJ => ?_⟩
  · have hslot : aligned64 offset 8 = true ∧ I.readSlot offset = x := by
      simp only [List.mem_cons, Prod.mk.injEq, List.not_mem_nil, or_false] at hx
      rcases hx with ⟨rfl, rfl⟩ | ⟨rfl, rfl⟩ | ⟨rfl, rfl⟩ | ⟨rfl, rfl⟩ | ⟨rfl, rfl⟩ | ⟨rfl, rfl⟩ | ⟨rfl, rfl⟩ |
        ⟨rfl, rfl⟩ | ⟨rfl, rfl⟩ <;> exact ⟨rfl, rfl⟩
    obtain ⟨hal, rfl⟩ := hslot
    exact step_regRead hI hal
  · have hslot : aligned64 offset 8 = true ∧ offset ≠ cmdOffset ∧ I.writeSlot offset v = J := by
      simp only [List.mem_cons, Prod.mk.injEq, List.not_mem_nil, or_false] at hJ
      rcases hJ with ⟨rfl, rfl⟩ | ⟨rfl, rfl⟩ | ⟨rfl, rfl⟩ | ⟨rfl, rfl⟩ <;> exact ⟨rfl, by decide, rfl⟩
    obtain ⟨hal, hcmd, rfl⟩ := hslot
    exact step_regWrite hI hal hcmd

end Sys2Proof.Machine
end

section
/-! PROOF. The fields an algorithm does not use (spec/10_state.md R32, R36): the block hook and the reset hook keep
them 0. -/

namespace Sys2Proof.Machine

/-! ### The fields of the other families -/

/-- The fields of MD2 are 0. -/
def Engine.md2Zero (e : Engine) : Prop := e.md2X = Vector.replicate 16 0 ∧ e.md2C = Vector.replicate 16 0

/-- The fields of BLAKE2b are 0. -/
def Engine.blakeZero (e : Engine) : Prop :=
  e.blakeH = Vector.replicate 8 0 ∧ e.blakeT = 0 ∧ e.pend = false ∧ e.pb = Vector.replicate 128 0

/-- The fields that the algorithm does not use are 0 (R36). -/
def Engine.unusedZero (a : Alg) (e : Engine) : Prop :=
  match a with
  | .md2 => e.mdH = Vector.replicate 8 0 ∧ e.lanes = Vector.replicate 25 0 ∧ e.blakeZero
  | .sha3 | .shake128 | .shake256 => e.md2Zero ∧ e.mdH = Vector.replicate 8 0 ∧ e.blakeZero
  | .blake2b => e.md2Zero ∧ e.mdH = Vector.replicate 8 0 ∧ e.lanes = Vector.replicate 25 0
  | .md4 | .md5 | .sha1 | .sha2_256 | .sha2_512 | .ripemd128 | .ripemd160 =>
    e.md2Zero ∧ e.lanes = Vector.replicate 25 0 ∧ e.blakeZero

theorem Engine.unusedZero_zero (a : Alg) : Engine.zero.unusedZero a := by
  cases a <;> simp [Engine.unusedZero, Engine.md2Zero, Engine.blakeZero, Engine.zero]

theorem unusedZero_blakeTransformBlock {e : Engine} (h : e.unusedZero .blake2b) (B : List Byte) :
    (blakeTransformBlock e B).unusedZero .blake2b := by
  unfold blakeTransformBlock
  split <;> exact h

theorem unusedZero_transformBlock {c : Cfg} {a : Alg} (hc : c.alg = some a) {e : Engine} (B : List Byte)
    (h : e.unusedZero a) : (transformBlock c e B).unusedZero a := by
  cases a <;> simp only [transformBlock, hc]
  case blake2b => exact unusedZero_blakeTransformBlock h B
  all_goals simpa only [Engine.unusedZero, Engine.md2Zero, Engine.blakeZero, md2TransformBlock, mdTransformBlock,
    spongeTransformBlock] using h

theorem unusedZero_freshEngine {c : Cfg} {a : Alg} (hc : c.alg = some a) : (freshEngine c).unusedZero a := by
  have hzero := Engine.unusedZero_zero a
  cases a <;> simp only [freshEngine, resetState, hc]
  case blake2b =>
    unfold blakeResetState
    split
    · exact unusedZero_blakeTransformBlock (e := blakeInit c Engine.zero) hzero (blakeKeyBlock c)
    · exact hzero
  all_goals simpa only [Engine.unusedZero, Engine.md2Zero, Engine.blakeZero, mdResetState] using hzero

theorem Inst.holds.unusedZero {I : Inst} {M : List Byte} (hM : I.holds M) {a : Alg} (hc : I.cfg.alg = some a) :
    I.eng.unusedZero a :=
  hM.induction (unusedZero_freshEngine hc) (fun _ B => unusedZero_transformBlock hc B)
    (fun _ _ _ _ h => by cases a <;> exact h)

/-! ### The words of a 32-bit algorithm -/

theorem mdH_transformBlock {c : Cfg} {a : Alg} (hc : c.alg = some a) (e : Engine) (B : List Byte) :
    (transformBlock c e B).mdH = mdCompress a e.mdH B := by
  cases a <;> simp only [transformBlock, hc]
  case blake2b =>
    unfold blakeTransformBlock
    split <;> rfl
  all_goals simp only [md2TransformBlock, mdTransformBlock, spongeTransformBlock, mdCompress]

theorem mdH_freshEngine {c : Cfg} {a : Alg} (hc : c.alg = some a) :
    (freshEngine c).mdH = mdIV a c.dsz.toNat := by
  cases a <;> simp only [freshEngine, resetState, hc]
  case blake2b =>
    unfold blakeResetState
    split <;> rfl
  all_goals rfl

/-- Bits 63:32 of every register are 0, and so are the registers from `n` on (R32). -/
def NarrowWords (n : Nat) (H : Vector Lane 8) : Prop :=
  ∀ j : Fin 8, H[j].toNat < 2 ^ 32 ∧ (n ≤ j.1 → H[j] = 0)

/-- The 32-bit algorithms, each with the number of its registers. -/
def narrowAlgs : List (Alg × Nat) :=
  [(.md4, 4), (.md5, 4), (.ripemd128, 4), (.sha1, 5), (.ripemd160, 5), (.sha2_256, 8)]

theorem wideWord_lt (w : Word) : (wideWord w).toNat < 2 ^ 32 := by
  rw [wideWord, BitVec.toNat_setWidth]
  exact (Nat.mod_le _ _).trans_lt w.isLt

theorem narrowWords_writeReg4 (r : Reg4) {H : Vector Lane 8} (h : NarrowWords 4 H) :
    NarrowWords 4 (writeReg4 r H) := by
  intro j
  fin_cases j
  exacts [⟨wideWord_lt _, nofun⟩, ⟨wideWord_lt _, nofun⟩, ⟨wideWord_lt _, nofun⟩, ⟨wideWord_lt _, nofun⟩,
    h 4, h 5, h 6, h 7]

theorem narrowWords_writeReg5 (r : Reg5) {H : Vector Lane 8} (h : NarrowWords 5 H) :
    NarrowWords 5 (writeReg5 r H) := by
  intro j
  fin_cases j
  exacts [⟨wideWord_lt _, nofun⟩, ⟨wideWord_lt _, nofun⟩, ⟨wideWord_lt _, nofun⟩, ⟨wideWord_lt _, nofun⟩,
    ⟨wideWord_lt _, nofun⟩, h 5, h 6, h 7]

theorem narrowWords_writeReg8 (r : Reg8 32) : NarrowWords 8 (writeReg8 r) := by
  intro j
  refine ⟨?_, fun h => absurd j.isLt (by omega)⟩
  fin_cases j <;> exact wideWord_lt _

theorem narrowWords_mdCompress {a : Alg} {n : Nat} (ha : (a, n) ∈ narrowAlgs) {H : Vector Lane 8} (B : List Byte)
    (h : NarrowWords n H) : NarrowWords n (mdCompress a H B) := by
  simp only [narrowAlgs, List.mem_cons, Prod.mk.injEq, List.not_mem_nil, or_false] at ha
  rcases ha with ⟨rfl, rfl⟩ | ⟨rfl, rfl⟩ | ⟨rfl, rfl⟩ | ⟨rfl, rfl⟩ | ⟨rfl, rfl⟩ | ⟨rfl, rfl⟩
  · exact narrowWords_writeReg4 _ h
  · exact narrowWords_writeReg4 _ h
  · exact narrowWords_writeReg4 _ h
  · exact narrowWords_writeReg5 _ h
  · exact narrowWords_writeReg5 _ h
  · exact narrowWords_writeReg8 _

theorem narrowWords_mdIV {a : Alg} {n : Nat} (ha : (a, n) ∈ narrowAlgs) (dsz : Nat) :
    NarrowWords n (mdIV a dsz) := by
  simp only [narrowAlgs, List.mem_cons, Prod.mk.injEq, List.not_mem_nil, or_false] at ha
  rcases ha with ⟨rfl, rfl⟩ | ⟨rfl, rfl⟩ | ⟨rfl, rfl⟩ | ⟨rfl, rfl⟩ | ⟨rfl, rfl⟩ | ⟨rfl, rfl⟩ <;> simp only [mdIV]
  case inr.inr.inr.inr.inr => split_ifs <;> (unfold NarrowWords; decide)
  all_goals (unfold NarrowWords; decide)

theorem Inst.holds.narrowWords {I : Inst} {M : List Byte} (hM : I.holds M) {a : Alg} {n : Nat}
    (hc : I.cfg.alg = some a) (ha : (a, n) ∈ narrowAlgs) : NarrowWords n I.eng.mdH := by
  refine hM.induction (P := fun e => NarrowWords n e.mdH) ?fresh ?block fun _ _ _ _ h => h
  case fresh => exact mdH_freshEngine hc ▸ narrowWords_mdIV ha _
  case block => exact fun e B h => mdH_transformBlock hc e B ▸ narrowWords_mdCompress ha B h

theorem Cfg.keyLen_of_ok {c : Cfg} {a : Alg} (hok : c.ok = true) (hc : c.alg = some a) (hb : a ≠ .blake2b) :
    c.keyLen = 0 := by
  have hno : c.noKey = true := by
    unfold Cfg.ok at hok
    cases a <;> simp_all
  simp only [Cfg.noKey, Bool.and_eq_true, decide_eq_true_eq] at hno
  exact hno.2

/-- Settles O60: the first four clauses are the rows of `Engine.unusedZero`, which the hooks keep, and the last is
what they do to the words of H. -/
theorem fieldUse : Obligations.FieldUse := by
  intro I M a hok hc hM
  have h := hM.unusedZero hc
  refine ⟨fun ha => ?_, fun h3 h128 h256 => ?_, fun ha => ?_, fun ha => ?_, fun n ha => hM.narrowWords hc ha⟩
  · cases a <;> simp_all [Engine.unusedZero, Engine.md2Zero]
  · cases a <;> simp_all [Engine.unusedZero]
  · cases a <;> simp_all [Engine.unusedZero]
  · have hk := Cfg.keyLen_of_ok hok hc ha
    cases a <;> simp_all [Engine.unusedZero, Engine.blakeZero]

end Sys2Proof.Machine
end

section
/-! PROOF. The host's own accesses to HM (spec/20_memory.md R60, R71). -/

namespace Sys2Proof.Machine

section hostMemory
variable (s : State) (rest : List HostAccess) (a : Nat) (v : Byte)

theorem step_hmStore : step { s with program := .hmStore a v :: rest } =
    if a < (s.hmSize : Nat) then .next { s with program := rest, hm := s.hm.write a v }
    else .fault .noSuchMemory := by
  rw [step_of_access rfl rfl]
  rfl

theorem step_hmLoad : step { s with program := .hmLoad a :: rest } =
    if a < (s.hmSize : Nat) then .next { s with program := rest, readData := (s.hm.read a).setWidth 64 }
    else .fault .noSuchMemory := by
  rw [step_of_access rfl rfl]
  rfl

end hostMemory

/-- Settles O41: the two accesses by whether the address lies in HM, the store by read after write. -/
theorem hostMemoryAccess : Obligations.HostMemoryAccess := by
  intro s rest a v hwf
  rw [step_hmStore, step_hmLoad]
  refine ⟨fun ha => ?_, fun ha => ?_⟩
  · rw [if_pos ha, if_pos ha]
    exact ⟨⟨_, rfl, rfl, rfl, Memory.read_write_same _ hwf a v,
      fun b hb => Memory.read_write_other _ hwf hb v⟩, rfl⟩
  · rw [if_neg ha, if_neg ha]
    exact ⟨rfl, rfl⟩

end Sys2Proof.Machine
end

section
/-! PROOF. A digest fills its region exactly (spec/20_memory.md R66, 40_buffering_engine.md R125, R131). -/

namespace Sys2Proof.Machine

/-! ### The length of a digest -/

@[simp] theorem length_bytesOfLanes (A : Lanes) : (bytesOfLanes A).length = 200 := by
  simp [bytesOfLanes, List.length_flatMap, putLe64]

@[simp] theorem length_blakeSerialize (h : Vector Lane 8) : (blakeSerialize h).length = 64 := by
  simp [blakeSerialize, List.length_flatMap, putLe64]

/-- With enough permutations, and a rate that fits the state, the squeeze gives the whole output
(46_sponge.md R315). -/
theorem length_squeezeLoop {rate : Nat} (hpos : 0 < rate) (hrate : rate ≤ 200) (fuel : Nat) :
    ∀ (A : Lanes) (n : Nat), n ≤ rate + fuel → (squeezeLoop rate fuel A n).length = n := by
  induction fuel with
  | zero =>
    intro A n hn
    simp [squeezeLoop]
    omega
  | succ fuel ih =>
    intro A n hn
    rw [squeezeLoop, List.length_append, List.length_take, length_bytesOfLanes]
    split
    · simp
      omega
    · rw [ih _ _ (by omega)]
      omega

/-- The words that a length-padded algorithm serializes hold each of its digest sizes (41_md_framework.md R174). -/
theorem dlen_le_length_mdSerialize {c : Cfg} {a : Alg} (hok : c.ok = true) (halg : c.alg = some a)
    (ha : a ∈ [Alg.md4, .md5, .sha1, .sha2_256, .sha2_512, .ripemd128, .ripemd160]) (H : Vector Lane 8) :
    c.dlen.toNat ≤ (mdSerialize a H).length := by
  rw [Cfg.ok, halg] at hok
  simp only [List.mem_cons, List.not_mem_nil, or_false] at ha
  rcases ha with rfl | rfl | rfl | rfl | rfl | rfl | rfl <;>
    simp [mdSerialize, List.length_flatMap, putLe32, putBe32, putBe64] at hok ⊢ <;> grind

/-- A digest has exactly DLEN bytes, whatever the engine holds (40_buffering_engine.md R131). -/
theorem length_digestBytes {c : Cfg} (hok : c.ok = true) (e : Engine) :
    (digestBytes c e).length = c.dlen.toNat := by
  unfold digestBytes transformFinal
  cases halg : c.alg with
  | none => simp [Cfg.ok, halg] at hok
  | some a =>
    cases a with
    | md2 =>
      have hdlen : c.dlen = 16 := by simp_all [Cfg.ok]
      simp [md2Final, hdlen]
    | sha3 | shake128 | shake256 =>
      obtain ⟨hpos, hblk⟩ := Cfg.blk_of_ok hok
      exact length_squeezeLoop hpos (by omega) _ _ _ (by omega)
    | blake2b =>
      have hdlen : c.dlen.toNat ≤ 64 := by simp_all [Cfg.ok]
      simp [blakeFinal, hdlen]
    | _ => exact List.length_take_of_le (dlen_le_length_mdSerialize hok halg (by decide) _)

/-! ### What a digest stores -/

/-- After a digest stored at `addr`, HM reads as the digest in its DLEN bytes and as before elsewhere. -/
theorem read_finishDigest {s : State} {I : Inst} (hwf : s.hm.wf = true) (hok : I.cfg.ok = true) (addr a : Nat) :
    (finishDigest s I addr).hm.read a = if addr ≤ a ∧ a < addr + I.cfg.dlen.toNat then
      (digestBytes I.cfg I.eng).getD (a - addr) 0 else s.hm.read a := by
  rw [finishDigest_hm, Memory.read_writeBytes _ _ _ _ hwf, length_digestBytes hok]

/-- A digest command either fails and leaves HM alone, or is a digest stored inside HM where its operands say. -/
theorem Effect.digest_cases {i : Instr} {s t : State} {I : Inst} {addr : Nat} (ef : Effect s I i t)
    (hi : (i = .digest ∧ addr = (I.arg0.toInt + I.arg2.toInt).toNat) ∨ (i = .digest0 ∧ addr = I.arg0.toInt.toNat)) :
    (∃ J, J.err ≠ .ok ∧ t = s.commit J) ∨
      (addr + I.cfg.dlen.toNat ≤ (s.hmSize : Nat) ∧ t = finishDigest s I addr) := by
  cases ef with
  | raised _ e he => exact .inl ⟨_, he, rfl⟩
  | fatal => exact .inl ⟨{ I with fatal := true, err := .internalInvariant }, nofun, rfl⟩
  | configured _ a p ha => rcases hi with ⟨rfl, -⟩ | ⟨rfl, -⟩ <;> cases ha
  | input | reset => simp at hi
  | digest _ addr' _ _ hi' hr =>
    have heq : addr = addr' := by
      rcases hi' with ⟨rfl, rfl, -⟩ | ⟨rfl, rfl, -⟩ <;> simpa using hi
    subst heq
    exact .inr ⟨hr, rfl⟩

/-- Settles O28: a failed digest commits an error alone, and a successful one writes the DLEN bytes of the digest. -/
theorem digestIsolation : Obligations.DigestIsolation := by
  intro i s t I addr h hwf hok hi he
  rcases (effect_of_exec h he).digest_cases hi with ⟨J, hJ, rfl⟩ | ⟨hr, rfl⟩
  · refine ⟨fun herr => ?_, fun _ _ => rfl⟩
    rw [errAfter_commit h] at herr
    exact absurd (Option.some.inj herr) hJ
  · refine ⟨fun _ => ⟨hr, fun k hk => ?_, fun a ha => ?_⟩, fun herr => absurd (errAfter_finishDigest h addr) herr⟩
    · rw [read_finishDigest hwf hok, if_pos (by omega), Nat.add_sub_cancel_left]
    · rw [read_finishDigest hwf hok, if_neg ha]

end Sys2Proof.Machine
end

section
/-! PROOF. A command is local (spec/20_memory.md R66, R73, 40_buffering_engine.md R132): what it does to its instance
and stores to HM is fixed by that instance, HMSIZE and, where it succeeds, the bytes its operands name. -/

namespace Sys2Proof.Machine

/-! ### What a command does, apart from the state it runs in -/

/-- The instance a command leaves, and the bytes it stores from an address up. -/
structure CommandResult where
  inst : Inst
  addr : Nat
  bytes : List Byte

namespace CommandResult

/-- An instance alone, with nothing stored. -/
def ofInst (J : Inst) : CommandResult := { inst := J, addr := 0, bytes := [] }

/-- The result of a digest stored at `addr`. -/
def ofDigest (I : Inst) (addr : Nat) : CommandResult :=
  { inst := { I.resetEngine with result := I.arg0, err := .ok }, addr := addr, bytes := digestBytes I.cfg I.eng }

/-- The addresses stored to. -/
def Stores (r : CommandResult) (a : Nat) : Prop := r.addr ≤ a ∧ a < r.addr + r.bytes.length

/-- On a configuration of the table, only a success stores, and only bytes the command is said to write (R66). -/
def Within (r : CommandResult) (i : Instr) (I : Inst) : Prop :=
  (I.configured = true → I.cfg.ok = true) → ∀ a, r.Stores a → r.inst.err = .ok ∧ commandWrites i I a = true

theorem within_ofInst (i : Instr) (I J : Inst) : (ofInst J).Within i I := by
  rintro - a ⟨-, hlt⟩
  exact absurd hlt (Nat.not_lt_zero a)

end CommandResult

/-- The result of a command put into a state. -/
def State.apply (s : State) (r : CommandResult) : State :=
  { s with hm := s.hm.writeBytes r.addr r.bytes }.commit r.inst

theorem State.apply_ofDigest (s : State) (I : Inst) (addr : Nat) :
    s.apply (.ofDigest I addr) = finishDigest s I addr := rfl

/-- `s'` shows a command on instance `I` what `s` shows it: the instance, HMSIZE, and, if the result is a success,
the bytes its operands name. -/
def SameView (i : Instr) (I : Inst) (r : CommandResult) (s s' : State) : Prop :=
  s'.inst? = some I ∧ s'.hmSize = s.hmSize ∧
    (r.inst.err = .ok → ∀ a, commandReads i I a = true → s'.hm.read a = s.hm.read a)

theorem SameView.refl {i : Instr} {I : Inst} {r : CommandResult} {s : State} (h : s.inst? = some I) :
    SameView i I r s s := ⟨h, rfl, fun _ _ _ => rfl⟩

/-- The meaning `c` of a command has one result on all states that show it what `s` does. -/
def Local (i : Instr) (I : Inst) (s : State) (c : State → Host.Outcome State Fault Refusal) : Prop :=
  ∃ r : CommandResult, r.Within i I ∧ ∀ s', SameView i I r s s' → c s' = .next (s'.apply r)

/-! ### What the operands name -/

theorem inputMessage_congr {I : Inst} {s s' : State} (hpos : 0 ≤ I.argInt0 + I.argInt2)
    (hread : ∀ a, commandReads .input I a = true → s'.hm.read a = s.hm.read a) :
    inputMessage s' I = inputMessage s I := by
  refine Memory.readBytes_congr _ _ _ _ fun k hk => hread _ ?_
  simp only [commandReads, Bool.and_eq_true, decide_eq_true_eq]
  omega

theorem keyBytes_congr {i : Instr} {a : Alg} (hi : configureAlg i = some a) {I : Inst} {s s' : State}
    (hpos : a = .blake2b → 0 ≤ I.argInt1)
    (hread : ∀ x, commandReads i I x = true → s'.hm.read x = s.hm.read x) :
    keyBytes a s' I = keyBytes a s I := by
  by_cases ha : a = .blake2b
  · subst ha
    have hbase := hpos rfl
    have hblake : i = .configureBlake2b := by cases i <;> simp [configureAlg] at hi ⊢
    rw [keyBytes, keyBytes, if_pos rfl, if_pos rfl]
    refine Memory.readBytes_congr _ _ _ _ fun k hk => hread _ ?_
    simp only [hblake, commandReads, Bool.and_eq_true, decide_eq_true_eq]
    omega
  · rw [keyBytes, keyBytes, if_neg ha, if_neg ha]

/-! ### The parts of a command -/

namespace Local
variable {i : Instr} {I : Inst} {s : State} {c d : State → Host.Outcome State Fault Refusal}
  {body : State → Inst → Host.Outcome State Fault Refusal}

theorem of_eq (hd : Local i I s d) (h : ∀ s', s'.inst? = some I → s'.hmSize = s.hmSize → c s' = d s') :
    Local i I s c := by
  obtain ⟨r, hw, hr⟩ := hd
  exact ⟨r, hw, fun s' hs' => (h s' hs'.1 hs'.2.1).trans (hr s' hs')⟩

/-- A command that leaves an instance made from the operand region and stores nothing. -/
theorem commit (J : State → Inst)
    (h : ∀ s' : State, (∀ a, commandReads i I a = true → s'.hm.read a = s.hm.read a) → J s' = J s)
    (hok : (J s).err = .ok) : Local i I s fun s' => .next (s'.commit (J s')) :=
  ⟨.ofInst (J s), CommandResult.within_ofInst i I _, fun s' ⟨_, _, hread⟩ =>
    congrArg (Host.Outcome.next <| s'.commit ·) (h s' (hread hok))⟩

theorem commit_const (J : Inst) : Local i I s fun s' => .next (s'.commit J) :=
  ⟨.ofInst J, CommandResult.within_ofInst i I J, fun _ _ => rfl⟩

theorem raise (e : ErrCode) : Local i I s (raise e I) := commit_const (I.withErr e)

theorem issue (h : I.fatal = false → Local i I s (body · I)) : Local i I s fun s' => issue s' (body s') := by
  cases hf : I.fatal with
  | true => exact (raise .internalInvariant).of_eq fun s' hs' _ => issue_fatal hs' hf _
  | false => exact (h hf).of_eq fun s' hs' _ => issue_run hs' hf _

theorem issueConfigured (h : I.configured = true → Local i I s (body · I)) :
    Local i I s fun s' => issueConfigured s' (body s') := by
  refine issue (body := fun s' I => if I.configured then body s' I else Machine.raise .notConfigured I s') fun _ => ?_
  cases hc : I.configured with
  | true => exact (h hc).of_eq fun _ _ _ => if_pos rfl
  | false => exact (raise .notConfigured).of_eq fun _ _ _ => if_neg nofun

/-- A digest stores the DLEN bytes from base + o, which must be those the command is said to write. -/
theorem digestTo {size o : Int} (hc : I.configured = true)
    (hi : ∀ a : Nat, I.arg0.toInt + o ≤ a → (a : Int) < I.arg0.toInt + o + I.cfg.dlen.toNat →
      commandWrites i I a = true) : Local i I s (digestTo · I size o) := by
  cases ha : digestArgsOk s.hmSize I.cfg.dlen.toNat I.argInt0 size o with
  | false => exact (raise .invalidArgument).of_eq fun s' _ hn => by simp [Machine.digestTo, hn, ha]
  | true =>
    by_cases ho : I.eng.off.toNat < I.cfg.blk.toNat
    · refine ⟨.ofDigest I (I.argInt0 + o).toNat, fun hok a hs => ⟨rfl, ?_⟩, fun s' ⟨_, hn, _⟩ => ?_⟩
      · obtain ⟨hoff, -, hbase, -⟩ := (digestArgsOk_iff ..).mp ha
        obtain ⟨hlo, hhi⟩ := hs
        simp only [CommandResult.ofDigest, length_digestBytes (hok hc), Inst.argInt0] at hlo hhi hbase
        exact hi a (by omega) (by omega)
      · simp [Machine.digestTo, hn, ha, ho, State.apply_ofDigest]
    · exact (commit_const { I with fatal := true, err := .internalInvariant }).of_eq fun s' _ hn => by
        simp [Machine.digestTo, hn, ha, ho, raiseFatal]

theorem input : Local .input I s (exec .input) := by
  refine issueConfigured fun _ => ?_
  cases ha : inputArgsOk s.hmSize I.argInt0 I.argInt1 I.argInt2 I.argInt3 with
  | false => exact (raise .invalidArgument).of_eq fun s' _ hn => by simp [hn, ha]
  | true =>
    obtain ⟨hoff, -, -, hbase, -⟩ := (inputArgsOk_iff ..).mp ha
    refine (commit (fun s' => { I with eng := inputBytes I.cfg I.eng (inputMessage s' I), err := .ok })
      (fun s' hread => ?_) rfl).of_eq fun s' _ hn => by simp [hn, ha]
    simp only [inputMessage_congr (add_nonneg hbase hoff) hread]

theorem configure {a : Alg} (hi : configureAlg i = some a) : Local i I s (exec i) := by
  refine Local.of_eq (issue fun _ => ?_) fun s' _ _ => exec_configure hi s'
  cases hp : paramsOf a I.argInt0 I.argInt2 with
  | none => exact raise .invalidConfiguration
  | some p =>
    by_cases hv : a = .blake2b ∧ validRegion s.hmSize I.argInt1 I.argInt2 = false
    · exact (raise .invalidArgument).of_eq fun s' _ hn => by simp [hn, hv]
    · refine (commit (fun s' => I.construct (cfgOf a p (keyBytes a s' I)))
        (fun s' hread => ?_) rfl).of_eq fun s' _ hn => by simp [hn, hv]
      have hpos : a = .blake2b → 0 ≤ I.argInt1 := fun ha => by
        have hregion : validRegion s.hmSize I.argInt1 I.argInt2 = true := by simpa [ha] using hv
        exact ((validRegion_iff ..).mp hregion).1
      simp only [keyBytes_congr hi hpos hread]

end Local

/-- Every command is local. -/
theorem exec_local (i : Instr) (I : Inst) (s : State) : Local i I s (exec i) := by
  cases i with
  | configureUnsupported b => exact Local.issue fun _ => Local.raise .invalidConfiguration
  | input => exact Local.input
  | digest =>
    refine Local.issueConfigured fun hc => Local.digestTo hc fun a hlo hhi => ?_
    simpa [commandWrites] using ⟨hlo, hhi⟩
  | digest0 =>
    refine Local.issueConfigured fun hc => Local.digestTo hc fun a hlo hhi => ?_
    rw [add_zero] at hlo hhi
    simpa [commandWrites] using ⟨hlo, hhi⟩
  | reset => exact Local.issueConfigured fun _ => Local.commit_const _
  | _ => exact Local.configure rfl

/-- Settles O35: two memories that agree on the operand region show the command the same. -/
theorem readsOnlyOperandRegion : Obligations.ReadsOnlyOperandRegion := by
  intro i s t I m h hm he
  obtain ⟨r, -, hr⟩ := exec_local i I s
  cases (hr s (.refl h)).symm.trans he
  exact ⟨_, hr { s with hm := m } ⟨h, rfl, fun _ => hm⟩, rfl⟩

end Sys2Proof.Machine
end

section
/-! PROOF. Commands on two instances commute (spec/20_memory.md R71, R73). -/

namespace Sys2Proof.Machine

/-! ### Host memory -/

theorem Memory.read_writeBytes_outside {m : Memory} (hm : m.wf = true) {a b : Nat} {bs : List Byte}
    (h : ¬(a ≤ b ∧ b < a + bs.length)) : (m.writeBytes a bs).read b = m.read b := by
  rw [Memory.read_writeBytes _ _ _ _ hm, if_neg h]

/-- Runs of writes to disjoint addresses commute. -/
theorem Memory.writeBytes_comm {m : Memory} (hm : m.wf = true) {a b : Nat} {bs cs : List Byte}
    (h : ∀ x, a ≤ x ∧ x < a + bs.length → ¬(b ≤ x ∧ x < b + cs.length)) :
    (m.writeBytes a bs).writeBytes b cs = (m.writeBytes b cs).writeBytes a bs := by
  have hbs := Memory.wf_writeBytes bs m a hm
  have hcs := Memory.wf_writeBytes cs m b hm
  refine Memory.ext_read _ _ (Memory.wf_writeBytes cs _ b hbs) (Memory.wf_writeBytes bs _ a hcs) fun x => ?_
  have hx := h x
  rw [Memory.read_writeBytes _ _ _ _ hbs, Memory.read_writeBytes _ _ _ _ hcs, Memory.read_writeBytes _ _ _ _ hm,
    Memory.read_writeBytes _ _ _ _ hm]
  split_ifs <;> tauto

/-! ### Results on two instances -/

theorem errAfter_apply {s : State} {I : Inst} (h : s.inst? = some I) (r : CommandResult) :
    errAfter (.next (s.apply r)) = some r.inst.err :=
  errAfter_commit (s := { s with hm := s.hm.writeBytes r.addr r.bytes }) h r.inst

/-- A result on instance `k` keeps the view of a command on another instance if it stores to none of the bytes that
command reads. -/
theorem SameView.apply_other {s : State} {k l : Nat} {j : Instr} {J : Inst} {r q : CommandResult}
    (hwf : s.hm.wf = true) (hne : k ≠ l) (hJ : s.instances[l]? = some J)
    (hdis : ∀ a, r.Stores a → q.inst.err = .ok → ¬commandReads j J a = true) :
    SameView j J q (s.select l) (((s.select k).apply r).select l) := by
  refine ⟨(State.commit_other _ _ hne.symm).trans hJ, rfl, fun hok a ha => ?_⟩
  exact Memory.read_writeBytes_outside hwf fun hs => hdis a hs hok ha

/-- Results on two instances that store to disjoint addresses commute. -/
theorem State.apply_comm {s : State} {k l : Nat} {r q : CommandResult} (hwf : s.hm.wf = true) (hne : k ≠ l)
    (hdis : ∀ a, r.Stores a → ¬q.Stores a) :
    (((s.select l).apply q).select k).apply r = (((s.select k).apply r).select l |>.apply q).select k := by
  simp only [State.apply, State.commit, State.select, List.set_comm _ _ hne, Memory.writeBytes_comm hwf hdis]

/-- Settles O36: by their disjoint accesses each command shows the other what it saw before, so each has one result
in both orders, and the results commute. -/
theorem instancesCommute : Obligations.InstancesCommute := by
  intro s k l i j I J hs hne hI hJ hdis
  have ⟨hwf, _, _, _⟩ := hs
  have hIk : (s.select k).inst? = some I := hI
  have hJl : (s.select l).inst? = some J := hJ
  have hokOf {k : Nat} {K : Inst} (hK : s.instances[k]? = some K) (hc : K.configured = true) : K.cfg.ok = true := by
    obtain ⟨-, -, -, hcon⟩ := hs.inst hK
    exact (hcon hc).1
  obtain ⟨r, hrw, hr⟩ := exec_local i I (s.select k)
  obtain ⟨q, hqw, hq⟩ := exec_local j J (s.select l)
  have ht := hr _ (.refl hIk)
  have hu := hq _ (.refl hJl)
  rw [ht, hu, errAfter_apply hIk, errAfter_apply hJl, Option.some_inj, Option.some_inj] at hdis
  have hrs := hrw (hokOf hI)
  have hqs := hqw (hokOf hJ)
  have hv := hq _ (.apply_other hwf hne hJ fun a ha hqok hread => by
    obtain ⟨hrok, hwrite⟩ := hrs a ha
    exact (hdis hrok hqok a).1 ⟨hwrite, .inl hread⟩)
  have hw := hr _ (.apply_other hwf hne.symm hI fun a ha hrok hread => by
    obtain ⟨hqok, hwrite⟩ := hqs a ha
    exact (hdis hrok hqok a).2 ⟨hwrite, hread⟩)
  refine ⟨_, _, _, ht, hv, hu, hw.trans (congrArg _ (State.apply_comm hwf hne fun a har haq => ?_))⟩
  obtain ⟨hrok, hrwrite⟩ := hrs a har
  obtain ⟨hqok, hqwrite⟩ := hqs a haq
  exact (hdis hrok hqok a).1 ⟨hrwrite, .inr hqwrite⟩

end Sys2Proof.Machine
end

section
/-! PROOF. The decoder and the encoder are inverse to each other, and the decoder rejects the illegal values
(spec/30_encoding.md R92, R95, R96, R97, 60_exceptions.md R374). -/

namespace Sys2Proof

/-! ### Command words -/

theorem decode_commandWord_configure (alg : Byte) : decode (commandWord 0x01 alg) = .ok (decodeConfigure alg) := by
  simp [decode]

theorem encode_decodeConfigure (alg : Byte) : encode (decodeConfigure alg) = commandWord 0x01 alg := by
  revert alg; decide

theorem wellFormed_decodeConfigure (alg : Byte) : (decodeConfigure alg).wellFormed = true := by
  revert alg; decide

/-! ### The two directions -/

/-- Which values decode to a command, and to which. -/
theorem decode_eq_ok_iff {v : Lane} {i : Instr} :
    decode v = .ok i ↔ rsvField v = 0 ∧
      (opField v = 0x01 ∧ decodeConfigure (algField v) = i ∨
        algField v = 0 ∧ (opField v = 0x02 ∧ .input = i ∨ opField v = 0x03 ∧ .digest = i ∨
          opField v = 0x04 ∧ .digest0 = i ∨ opField v = 0x05 ∧ .reset = i)) := by
  unfold decode
  split_ifs <;> simp_all

theorem decode_encode {i : Instr} (h : i.wellFormed = true) : decode (encode i) = .ok i := by
  cases i with
  | configureUnsupported alg => exact (decode_commandWord_configure alg).trans (by rw [decodeConfigure_unsupported h])
  | input | digest | digest0 | reset => simp [encode, decode]
  | _ => exact decode_commandWord_configure _

theorem wellFormed_and_encode_of_decode {v : Lane} {i : Instr} (h : decode v = .ok i) :
    i.wellFormed = true ∧ encode i = v := by
  obtain ⟨hrsv, hcmd⟩ := decode_eq_ok_iff.mp h
  rw [commandWord_of_fields hrsv]
  obtain ⟨hop, rfl⟩ | ⟨halg, ⟨hop, rfl⟩ | ⟨hop, rfl⟩ | ⟨hop, rfl⟩ | ⟨hop, rfl⟩⟩ := hcmd
  · rw [hop]
    exact ⟨wellFormed_decodeConfigure _, encode_decodeConfigure _⟩
  all_goals
    rw [hop, halg]
    exact ⟨rfl, rfl⟩

/-! ### The bytes of a value -/

/-- The eight little-endian bytes of a value decode as the value does. -/
theorem decodeBytes_putLe (v : Lane) : decodeBytes (putLe 8 v.toNat) = decode v := by
  rw [decodeBytes, if_pos (length_putLe ..), leNat_putLe 8 _ v.isLt, BitVec.ofNat_toNat, BitVec.setWidth_eq]

theorem decodeTableWord_toNat (v : Lane) : decodeTableWord 64 v.toNat = (decode v).toOption := by
  rw [decodeTableWord, Nat.mod_eq_of_lt v.isLt, decodeBytes_putLe]

/-- Settles O1: a well-formed command decodes from its word, of which the other two forms are the bytes; and the
fields of a value that decodes are those of the command. -/
theorem encodeDecodeAgree : Obligations.EncodeDecodeAgree := by
  refine ⟨fun i hi => ?_, fun v i => wellFormed_and_encode_of_decode⟩
  rw [decodeBytes_putLe, decodeTableWord_toNat, decode_encode hi]
  exact ⟨rfl, rfl, rfl⟩

/-- Settles O3: the decoder evaluated on each of the nine words. -/
theorem tableWordsDecode : Obligations.TableWordsDecode := by
  unfold Obligations.TableWordsDecode
  decide

end Sys2Proof

namespace Sys2Proof.Machine

/-! ### Illegal values -/

/-- The legal values by their fields. -/
theorem not_illegalValue_iff {v : Lane} :
    ¬IllegalValue v ↔ rsvField v = 0 ∧ (opField v = 0x01 ∨
      algField v = 0 ∧ (opField v = 0x02 ∨ opField v = 0x03 ∨ opField v = 0x04 ∨ opField v = 0x05)) := by
  simp only [IllegalValue, ← BitVec.toNat_inj, toNat_opField, toNat_algField, toNat_rsvField, BitVec.ofNat_eq_ofNat,
    BitVec.toNat_ofNat]
  omega

/-- The legal values are those that decode to a command. -/
theorem not_illegalValue_iff_decode {v : Lane} : ¬IllegalValue v ↔ ∃ i, decode v = .ok i := by
  simp [not_illegalValue_iff, decode_eq_ok_iff, exists_or]

theorem execValue_of_not_decode {v : Lane} (h : ∀ i, decode v ≠ .ok i) (s : State) :
    execValue v s = illegalCommand s := by
  unfold execValue
  cases hv : decode v with
  | ok i => exact absurd hv (h i)
  | error e => rfl

/-- Settles O2: the values that decode to a command are the legal ones, and any other value raises
ILLEGAL_COMMAND. -/
theorem illegalCommandValues : Obligations.IllegalCommandValues := by
  refine fun v => ⟨fun hv => ?_, fun hv => ?_⟩
  · have hnone : ∀ i, decode v ≠ .ok i := fun i hi => not_illegalValue_iff_decode.mpr ⟨i, hi⟩ hv
    refine ⟨hnone, fun s I hs hf => ?_⟩
    rw [execValue_of_not_decode hnone, illegalCommand, issue_run hs hf]
    rfl
  · obtain ⟨i, hi⟩ := not_illegalValue_iff_decode.mp hv
    obtain ⟨hwf, henc⟩ := wellFormed_and_encode_of_decode hi
    exact ⟨i, hwf, hi, henc⟩

/-- Settles O14: without FATAL the command is its body, which raises INVALID_CONFIGURATION. -/
theorem configureUnsupportedCompletes : Obligations.ConfigureUnsupportedCompletes :=
  fun _ _ _ hs hf => issue_run hs hf _

end Sys2Proof.Machine
end

section
/-! PROOF. CONFIGURE completes (spec/40_buffering_engine.md R121, R122): on parameters that `Params` accepts the
instance is freshly configured with them. -/

namespace Sys2Proof.Machine

/-- The two readings of an operand agree where it is not negative (00_scope.md R12). -/
theorem toNat_toInt_of_nonneg {v : Lane} (h : 0 ≤ v.toInt) : v.toInt.toNat = v.toNat :=
  BitVec.toNat_toInt_of_sle (by simpa [BitVec.sle] using h)

/-- CONFIGURE completes on accepted parameters and, for BLAKE2b, a valid key region. -/
theorem exec_configure_completes {i : Instr} {a : Alg} {s : State} {I : Inst} {p : Params}
    (hi : configureAlg i = some a) (h : s.inst? = some I) (hf : I.fatal = false)
    (hp : paramsOf a I.arg0.toInt I.arg2.toInt = some p)
    (hv : a = .blake2b → Valid s.hmSize I.arg1.toInt I.arg2.toInt) :
    exec i s = .next (s.commit (I.construct (cfgOf a p (keyBytes a s I)))) := by
  rw [exec_configure hi]
  rcases configure_cases a s h with ⟨hf', -⟩ | ⟨-, hp', -⟩ | ⟨-, -, -, ha, hv', -⟩ | ⟨q, -, hq, -, e⟩
  · exact absurd (hf.symm.trans hf') nofun
  · exact absurd (hp.symm.trans hp') nofun
  · exact absurd (hv ha) hv'
  · cases hp.symm.trans hq
    exact e

/-- Without a key to read, the configuration is the unkeyed one of the parameters. -/
theorem exec_configure_unkeyed {i : Instr} {a : Alg} {s : State} {I : Inst} {dsz dlen blk : Nat}
    (hi : configureAlg i = some a) (h : s.inst? = some I) (hf : I.fatal = false)
    (hp : paramsOf a I.arg0.toInt I.arg2.toInt = some ⟨dsz, dlen, blk⟩) (ha : a ≠ .blake2b) :
    exec i s = .next (s.commit (I.construct (Cfg.unkeyed a dsz dlen blk))) := by
  have hc : cfgOf a ⟨dsz, dlen, blk⟩ (keyBytes a s I) = Cfg.unkeyed a dsz dlen blk := by
    rw [keyBytes, if_neg ha, cfgOf, padVec_nil]
    rfl
  rw [exec_configure_completes hi h hf hp fun hb => absurd hb ha, hc]

/-- Settles O9: the parameters of each of the six families do not depend on the operands. -/
theorem configureFixedSizeCompletes : Obligations.ConfigureFixedSizeCompletes := by
  intro s I hs hf i c hc
  simp only [List.mem_cons, Prod.mk.injEq, List.not_mem_nil, or_false] at hc
  rcases hc with ⟨rfl, rfl⟩ | ⟨rfl, rfl⟩ | ⟨rfl, rfl⟩ | ⟨rfl, rfl⟩ | ⟨rfl, rfl⟩ | ⟨rfl, rfl⟩ <;>
    exact exec_configure_unkeyed rfl hs hf rfl nofun

/-- Settles O10: each accepted size gives its parameters. -/
theorem configureSha2Completes : Obligations.ConfigureSha2Completes := by
  intro s I hs hf bits hbits
  constructor <;> rintro hsize c rfl <;> refine exec_configure_unkeyed rfl hs hf ?_ nofun
  all_goals rw [hbits, paramsOf, if_pos (mod_cast hsize), Int.toNat_natCast]

/-- Settles O11: each of the four sizes gives its parameters, with its rate. -/
theorem configureSha3Completes : Obligations.ConfigureSha3Completes := by
  rintro s I hs hf bits rate hrow hbits c rfl
  refine exec_configure_unkeyed rfl hs hf ?_ nofun
  rw [hbits]
  simp only [List.mem_cons, Prod.mk.injEq, List.not_mem_nil, or_false] at hrow
  rcases hrow with ⟨rfl, rfl⟩ | ⟨rfl, rfl⟩ | ⟨rfl, rfl⟩ | ⟨rfl, rfl⟩ <;> rfl

/-- Settles O12: every length that is not negative is accepted as it stands. -/
theorem configureShakeCompletes : Obligations.ConfigureShakeCompletes := by
  intro s I hs hf hpos
  constructor <;> rintro c rfl <;> refine exec_configure_unkeyed rfl hs hf ?_ nofun
  all_goals rw [paramsOf, if_pos hpos, toNat_toInt_of_nonneg hpos]

theorem getElem_padVec {n j : Nat} (bs : List Byte) (hj : j < n) : (padVec n bs)[j] = bs.getD j 0 := by
  simp [padVec]

/-- The bytes of a region, zero-padded. -/
theorem padVec_readBytes (n : Nat) (m : Memory) (a k : Nat) :
    padVec n (m.readBytes a k) = Vector.ofFn fun j => if j.1 < k then m.read (a + j.1) else 0 := by
  ext j hj : 1
  rw [getElem_padVec _ hj, Vector.getElem_ofFn]
  split
  case isTrue hk => exact Memory.getD_readBytes m a k j hk 0
  case isFalse hk => exact List.getD_eq_default _ _ (by simpa using hk)

/-- Settles O13: the parameters are accepted, and the key is the region's bytes, zero-padded. -/
theorem configureBlake2bCompletes : Obligations.ConfigureBlake2bCompletes := by
  intro s I hs hf h1 h64 hk hk64 hv c hc
  have ⟨hbase, _, _⟩ := hv
  have hp : paramsOf .blake2b I.arg0.toInt I.arg2.toInt = some ⟨0, I.arg0.toNat, 128⟩ := by
    rw [paramsOf, if_pos ⟨h1, h64, hk, hk64⟩, toNat_toInt_of_nonneg (by omega)]
  have hkey : keyBytes .blake2b s I = s.hm.readBytes I.arg1.toNat I.arg2.toNat := by
    rw [keyBytes, if_pos rfl, Inst.argInt1, Inst.argInt2, toNat_toInt_of_nonneg hbase, toNat_toInt_of_nonneg hk]
  have hcfg : cfgOf .blake2b ⟨0, I.arg0.toNat, 128⟩ (keyBytes .blake2b s I) = c := by
    rw [hc, hkey, cfgOf, padVec_readBytes, Memory.length_readBytes, ← toNat_toInt_of_nonneg hk]
    simp [Int.lt_toNat]
  rw [exec_configure_completes rfl hs hf hp fun _ => hv, hcfg, Inst.construct]

end Sys2Proof.Machine
end

section
/-! PROOF. INPUT (spec/40_buffering_engine.md R123, R124). -/

namespace Sys2Proof.Machine

/-! ### INPUT on its operands -/

theorem Memory.readBytes_eq_map (m : Memory) (a n : Nat) :
    m.readBytes a n = (List.range n).map fun k => m.read (a + k) := by
  refine List.ext_getElem (by simp) fun k hk _ => ?_
  rw [Memory.length_readBytes] at hk
  rw [List.getElem_map, List.getElem_range, ← Memory.getD_readBytes m a n k hk 0, List.getD_eq_getElem]

/-- The bytes INPUT reads where its operands pass the checks. -/
theorem inputMessage_eq_map {s : State} {I : Inst} (hb : 0 ≤ I.arg0.toInt) (ho : 0 ≤ I.arg2.toInt)
    (hn : 0 ≤ I.arg3.toInt) :
    inputMessage s I = (List.range I.arg3.toNat).map fun k => s.hm.read (I.arg0.toNat + I.arg2.toNat + k) := by
  rw [inputMessage, Inst.argInt0, Inst.argInt2, Inst.argInt3, Int.toNat_add hb ho, toNat_toInt_of_nonneg hb,
    toNat_toInt_of_nonneg ho, toNat_toInt_of_nonneg hn, Memory.readBytes_eq_map]

/-- A byte keeps a fill offset below BLK, also where BLK is larger than the buffer. -/
theorem off_absorbByte_lt_blk {c : Cfg} {e : Engine} (b : Byte) (ho : e.off.toNat < c.blk.toNat) :
    (absorbByte c e b).off.toNat < c.blk.toNat := by
  by_cases h : (storeByte e b).off = c.blk
  · rw [absorbByte_of_full b h]
    exact Nat.zero_lt_of_lt ho
  · rw [absorbByte_of_not_full b h]
    rw [storeByte_off] at h ⊢
    bv_omega

theorem off_absorbBytes_lt_blk {c : Cfg} (bs : List Byte) : ∀ {e : Engine}, e.off.toNat < c.blk.toNat →
    (absorbBytes c e bs).off.toNat < c.blk.toNat := by
  induction bs with
  | nil => exact id
  | cons b bs ih => exact fun ho => ih (off_absorbByte_lt_blk b ho)

/-- Settles O20: the loop written out is `absorbBytes` over the bytes read, which leaves LEN alone. -/
theorem inputCompletes : Obligations.InputCompletes := by
  intro s I hs hf hc ho hn hsize hv E hE
  have ⟨hbase, _, _⟩ := hv
  have hmsg := inputMessage_eq_map (s := s) hbase ho hn
  replace hE : E = absorbBytes I.cfg I.eng (inputMessage s I) := by
    rw [hE, hmsg]
    rfl
  have hlen : (inputMessage s I).length = I.arg3.toNat := by simp [hmsg]
  refine ⟨?_, fun h0 => ?_, fun hoff => ?_⟩
  · rcases exec_input_cases s hs hf hc with ⟨-, e⟩ | ⟨hbad, -⟩
    · rw [e, inputBytes, absorbBytes_len, hlen, hE]
    · exact absurd ⟨ho, hn, hsize, hv⟩ hbad
  · have hnil : inputMessage s I = [] := by simpa [h0] using hlen
    rw [hE, hnil, absorbBytes_nil]
  · rw [hE]
    exact off_absorbBytes_lt_blk _ hoff

/-- Settles O21: INPUT either succeeds on operands that pass its checks or only raises the error. -/
theorem inputRejects : Obligations.InputRejects := by
  intro s I hs hf hc
  rcases exec_input_cases s hs hf hc with ⟨⟨ho, hn, hsize, hv⟩, e⟩ | ⟨hbad, e⟩
  · have herr : errAfter (exec .input s) = some .ok := by rw [e, errAfter_commit hs]
    refine ⟨⟨fun h => absurd (herr.symm.trans h) nofun, ?_⟩, fun h => absurd (herr.symm.trans h) nofun⟩
    rintro (h | h | h | h)
    case inr.inr.inr => exact absurd hv h
    all_goals omega
  · have herr : errAfter (exec .input s) = some .invalidArgument := by rw [e, errAfter_raise hs]
    refine ⟨⟨fun _ => ?_, fun _ => herr⟩, fun _ => e⟩
    by_contra hnone
    simp only [not_or, not_not, Int.not_lt] at hnone
    exact hbad hnone

/-! ### A sequence of INPUT commands -/

theorem State.inst?_withArgs {s : State} {I : Inst} (h : s.inst? = some I) (a : Operands) :
    (s.withArgs a).inst? = some { I with arg0 := a.a0, arg1 := a.a1, arg2 := a.a2, arg3 := a.a3 } := by
  simp [State.withArgs, h]

@[simp] theorem State.withArgs_hm (s : State) (a : Operands) : (s.withArgs a).hm = s.hm := by
  unfold State.withArgs
  split <;> rfl

/-- A successful INPUT absorbs the bytes its operands present and keeps the configuration and HM. -/
theorem inputCall_of_ok {s t : State} {I : Inst} {a : Operands} (h : s.inst? = some I)
    (he : exec .input (s.withArgs a) = .next t) (hok : errAfter (.next t) = some .ok) :
    ∃ J, t.inst? = some J ∧ J.cfg = I.cfg ∧ J.eng = inputBytes I.cfg I.eng (callBytes s.hm a) ∧ t.hm = s.hm := by
  have hargs := State.inst?_withArgs h a
  cases effect_of_exec hargs he with
  | raised _ e hne =>
    rw [errAfter_commit hargs] at hok
    exact absurd (Option.some.inj hok) hne
  | fatal _ hi => simp at hi
  | configured _ _ _ hi => cases hi
  | input => exact ⟨_, State.inst?_commit hargs _, rfl, by rw [inputMessage, State.withArgs_hm]; rfl, by simp⟩
  | digest _ _ _ _ hi => simp at hi

theorem absorbTrace_inputBytes (c : Cfg) (e : Engine) (xs ys : List Byte) :
    absorbTrace c (inputBytes c e xs) ys = absorbTrace c (absorbBytes c e xs) ys := absorbTrace_setLen c ys _ _

/-- A sequence of successful INPUTs does what one INPUT of their bytes together does. -/
theorem inputCalls_eq_input {t : State} (as : List Operands) : ∀ {s : State} {I : Inst}, s.inst? = some I →
    inputCalls as s = some t →
    callsTrace as s = absorbTrace I.cfg I.eng (as.flatMap (callBytes s.hm)) ∧
      ∃ J, t.inst? = some J ∧ J.cfg = I.cfg ∧
        J.eng = inputBytes I.cfg I.eng (as.flatMap (callBytes s.hm)) := by
  induction as with
  | nil =>
    intro s I h hcalls
    cases hcalls
    exact ⟨rfl, I, h, rfl, (inputBytes_nil _ _).symm⟩
  | cons a as ih =>
    intro s I h hcalls
    rw [inputCalls] at hcalls
    cases he : exec .input (s.withArgs a) with
    | fault r => simp [he] at hcalls
    | refused r => simp [he] at hcalls
    | next u =>
      obtain ⟨hok, hrest⟩ : errAfter (.next u) = some .ok ∧ inputCalls as u = some t := by simpa [he] using hcalls
      obtain ⟨K, hK, hcfg, heng, hm⟩ := inputCall_of_ok h he hok
      obtain ⟨htrace, J, hJ, hJcfg, hJeng⟩ := ih hK hrest
      rw [hcfg, heng, hm] at htrace hJeng
      refine ⟨?_, J, hJ, hJcfg.trans hcfg, ?_⟩
      · simp only [callsTrace, h, he, htrace, List.flatMap_cons, absorbTrace_append, absorbTrace_inputBytes]
      · rw [hJeng, List.flatMap_cons, inputBytes_append]

/-- Settles O22: both sequences do what one INPUT of the same bytes does. -/
theorem chunkingInvariance : Obligations.ChunkingInvariance := by
  intro s t t' I as as' hs hcalls hcalls' hbytes
  obtain ⟨htrace, J, hJ, hcfg, heng⟩ := inputCalls_eq_input as hs hcalls
  obtain ⟨htrace', J', hJ', hcfg', heng'⟩ := inputCalls_eq_input as' hs hcalls'
  have hengs : J.eng = J'.eng := by rw [heng, heng', hbytes]
  have hcfgs : J.cfg = J'.cfg := hcfg.trans hcfg'.symm
  exact ⟨by rw [htrace, htrace', hbytes], J, J', hJ, hJ', hengs, hcfgs, by rw [hengs, hcfgs]⟩

end Sys2Proof.Machine
end

section
/-! PROOF. DIGEST, DIGEST0 and RESET complete, and what Reset() leaves (spec/40_buffering_engine.md R125, R128 to
R131). -/

namespace Sys2Proof.Machine

/-- A digest completes on operands that pass its checks, with room in the buffer. -/
theorem digestTo_completes {s : State} {I : Inst} {size o : Int} (hoff : I.eng.off.toNat < I.cfg.blk.toNat)
    (ho : 0 ≤ o) (hsize : (I.cfg.dlen.toNat : Int) ≤ size - o) (hv : Valid s.hmSize I.arg0.toInt size) :
    digestTo s I size o = .next (finishDigest s I (I.arg0.toNat + o.toNat)) := by
  have ⟨hbase, _, _⟩ := hv
  rcases digestTo_cases s I size o with ⟨hbad, -⟩ | ⟨-, hfull, -⟩ | ⟨-, -, e⟩
  · exact absurd ⟨ho, hsize, hv⟩ hbad
  · exact absurd hoff hfull
  · rw [e, Int.toNat_add hbase ho, toNat_toInt_of_nonneg hbase]

/-- Settles O26: the digest goes to base + o, both of them not negative. -/
theorem digestCompletes : Obligations.DigestCompletes := by
  intro s I hs hf hc hoff ho hsize hv
  have e : exec .digest s = digestTo s I I.arg1.toInt I.arg2.toInt := issueConfigured_run hs hf hc _
  rw [e, digestTo_completes hoff ho hsize hv, toNat_toInt_of_nonneg ho]
  rfl

/-- Settles O27: DIGEST0 is the digest to the DLEN bytes at ARG0, at offset 0. -/
theorem digest0Completes : Obligations.Digest0Completes := by
  intro s I hs hf hc hoff hv
  have e : exec .digest0 s = digestTo s I I.cfg.dlen.toNat 0 := issueConfigured_run hs hf hc _
  rw [e, digestTo_completes hoff le_rfl (by simp) hv]
  rfl

/-- Settles O30: RESET commits the reset engine, which is the instance itself where it was just reset. -/
theorem resetCompletes : Obligations.ResetCompletes := by
  intro s I hs hf hc
  have e : exec .reset s = .next (s.commit { I with eng := freshEngine I.cfg, err := .ok }) :=
    issueConfigured_run hs hf hc _
  refine ⟨e, fun heng herr => ?_⟩
  have hself : { I with eng := freshEngine I.cfg, err := .ok } = I := by rw [← heng, ← herr]
  rw [e, hself, State.commit_self hs]

/-- Settles O29: by the buffer invariants of an instance that holds a message, and the length of its digest. -/
theorem hookContract : Obligations.HookContract := by
  intro I M bs hok hM
  obtain ⟨-, hblk⟩ := Cfg.blk_of_ok hok
  have hoff := hM.off_lt hok
  exact ⟨length_of_mem_absorbTrace hblk bs hoff, length_partialBlock (hoff.le.trans hblk), hoff,
    length_digestBytes hok I.eng⟩

/-! ### What Reset() leaves -/

/-- Reset() of an algorithm other than BLAKE2b leaves all zero but the IV (41_md_framework.md R175). -/
theorem freshEngine_of_ne_blake2b {c : Cfg} {a : Alg} (hc : c.alg = some a) (ha : a ≠ .blake2b) :
    freshEngine c = { Engine.zero with mdH := mdIV a c.dsz.toNat } := by
  cases a <;> simp only [freshEngine, resetState, hc]
  case blake2b => exact absurd rfl ha
  all_goals rfl

/-- The bytes of the key block are the key, then zeros (47_blake2b.md R341). -/
theorem getD_blakeKeyBlock {c : Cfg} (hk : c.keyLen.toNat ≤ 64) (j : Nat) :
    (blakeKeyBlock c).getD j 0 = if j < c.keyLen.toNat then c.key.toList.getD j 0 else 0 := by
  have hlen : (c.key.toList.take c.keyLen.toNat).length = c.keyLen.toNat := by simpa using hk
  unfold blakeKeyBlock
  split
  case isTrue hj =>
    rw [List.getD_append _ _ _ _ (by omega), List.getD_eq_getElem?_getD, List.getElem?_take_of_lt hj,
      ← List.getD_eq_getElem?_getD]
  case isFalse hj =>
    rw [List.getD_append_right _ _ _ _ (by omega)]
    simp [zeros]

/-- Reset() of BLAKE2b leaves the parameter word in h[0] and the key block pending (47_blake2b.md R341); without a
key that block is zero, as the pending block is. -/
theorem freshEngine_of_blake2b {c : Cfg} (hc : c.alg = some .blake2b) :
    freshEngine c = { Engine.zero with
      blakeH := blakeIV.set 0 (blakeIV[0] ^^^ blakeParam c), pend := decide (0 < c.keyLen.toNat),
      pb := padVec 128 (blakeKeyBlock c) } := by
  simp only [freshEngine, resetState, hc, blakeResetState]
  split
  case isTrue hk =>
    rw [decide_eq_true hk]
    rfl
  case isFalse hk =>
    have hzero : padVec 128 (blakeKeyBlock c) = Vector.replicate 128 0 := by
      ext i hi : 1
      rw [getElem_padVec _ hi, getD_blakeKeyBlock (by omega), if_neg (by omega), Vector.getElem_replicate]
    rw [decide_eq_false hk, hzero]
    rfl

/-- The parameter word with KEYLEN moved by arithmetic (47_blake2b.md R340). -/
theorem blakeParam_eq (c : Cfg) :
    blakeParam c = 0x01010000 ^^^ BitVec.ofNat 64 (256 * c.keyLen.toNat) ^^^ c.dlen := by
  have hshift : c.keyLen.setWidth 64 <<< 8 = BitVec.ofNat 64 (256 * c.keyLen.toNat) := by
    bv_omega
  rw [blakeParam, hshift]
  rfl

/-- Settles O31: by the engine that Reset() leaves, for BLAKE2b and for every other algorithm. -/
theorem freshEngineState : Obligations.FreshEngineState := by
  intro c a hc hok
  refine ⟨freshEngine_buf c, freshEngine_off c, freshEngine_len c, ?_⟩
  by_cases ha : a = .blake2b
  · subst ha
    have hk : c.keyLen.toNat ≤ 64 := by simp_all [Cfg.ok, Cfg.keyPadded]
    rw [freshEngine_of_blake2b hc]
    refine ⟨rfl, rfl, rfl, rfl, rfl, fun h => absurd rfl h, fun _ => ⟨fun j => ?_, by simp, fun j => ?_⟩⟩
    · rw [← blakeParam_eq]
      fin_cases j <;> rfl
    · exact (getElem_padVec _ j.isLt).trans (getD_blakeKeyBlock hk j)
  · rw [freshEngine_of_ne_blake2b hc ha]
    exact ⟨rfl, rfl, rfl, rfl, rfl, fun _ => ⟨rfl, rfl, rfl⟩, fun h => absurd h ha⟩

end Sys2Proof.Machine
end

section
/-! PROOF. A step runs the command that a write to CMD names (spec/40_buffering_engine.md R120, 10_state.md R21,
R23). -/

namespace Sys2Proof.Machine

theorem commandOf_cmdWrite (k : Nat) (v : Lane) : commandOf (cmdWrite k v) = some (k, v) := rfl

theorem execValue_of_decode {v : Lane} {i : Instr} (h : decode v = .ok i) (s : State) : execValue v s = exec i s := by
  rw [execValue, h]

theorem withFetchWord_toNat (s : State) (v : Lane) :
    s.withFetchWord 64 v.toNat = { s with program := cmdWrite 0 v :: s.program } := by
  rw [State.withFetchWord, Nat.mod_eq_of_lt v.isLt, BitVec.ofNat_toNat, BitVec.setWidth_eq, queueCommand]

/-- Settles O4: the access is a command, whose value is decoded; the encoding of a command decodes to it. -/
theorem stepRunsDecodedCommand : Obligations.StepRunsDecodedCommand := by
  refine ⟨fun s rest k v hp => ?_, fun s i hi => ?_⟩
  · have e : step s = execValue v { s with program := rest, sel := k } :=
      step_of_command hp (commandOf_cmdWrite k v)
    exact ⟨fun i hi => e.trans (execValue_of_decode hi _), fun hnone => e.trans (execValue_of_not_decode hnone _)⟩
  · have e : step (s.withFetchWord 64 (encode i).toNat) = execValue (encode i) { s with sel := 0 } := by
      rw [withFetchWord_toNat]
      exact step_of_command rfl (commandOf_cmdWrite 0 _)
    exact e.trans (execValue_of_decode (decode_encode hi) _)

end Sys2Proof.Machine
end

section
/-! PROOF. The length-padded algorithms (spec/41_md_framework.md R170 to R177): the final blocks are the padding of
the message, so the buffered digest is the hash of the whole message. -/

namespace Sys2Proof.Machine

/-! ### The final blocks -/

@[simp] theorem length_mdLengthBytes (a : Alg) (len : Counter) :
    (mdLengthBytes a len).length = mdLengthField a := by
  unfold mdLengthBytes
  split <;> simp

@[simp] theorem length_zeros (n : Nat) : (zeros n).length = n := List.length_replicate

theorem zeros_add (m n : Nat) : zeros (m + n) = zeros m ++ zeros n := List.replicate_add m n 0

theorem take_zeros {n k : Nat} (h : n ≤ k) : (zeros k).take n = zeros n := by
  rw [zeros, List.take_replicate, Nat.min_eq_left h, zeros]

/-- The first padded block cut at `n` bytes, with at least the 0x80 before the cut. -/
theorem take_mdFirstPad {blk n : Nat} {P : List Byte} (hP : P.length < n) (hn : n ≤ blk) :
    (mdFirstPad blk P).take n = P ++ [0x80] ++ zeros (n - P.length - 1) := by
  have hhead : (P ++ [(0x80 : Byte)]).length = P.length + 1 := List.length_append
  rw [mdFirstPad, List.take_append, hhead, List.take_of_length_le (by omega), take_zeros (by omega), Nat.sub_sub]

/-- Two blocks where 0x80 and the length field do not fit after the partial block, else one (R173). -/
theorem length_mdFinalBlocks (a : Alg) (blk : Nat) (len : Counter) (P : List Byte) :
    (mdFinalBlocks a blk len P).length = if blk - P.length - 1 < mdLengthField a then 2 else 1 := by
  unfold mdFinalBlocks
  split <;> rfl

/-- The zeros that bring `k` bytes, at most one block, to the end of that block. -/
theorem zeroCount_of_le {k blk : Nat} (hpos : 0 < k) (hk : k ≤ blk) : (blk - k % blk) % blk = blk - k := by
  rcases hk.lt_or_eq with hlt | rfl
  · rw [Nat.mod_eq_of_lt hlt, Nat.mod_eq_of_lt (by omega)]
  · simp

/-- The zeros that bring `k` bytes, between one block and two, to the end of the second. -/
theorem zeroCount_of_lt {k blk : Nat} (hlt : blk < k) (hk : k < 2 * blk) :
    (blk - k % blk) % blk = 2 * blk - k := by
  have hmod : k % blk = k - blk := by
    rw [Nat.mod_eq_sub_mod hlt.le, Nat.mod_eq_of_lt (by omega)]
  rw [hmod, Nat.mod_eq_of_lt (by omega)]
  omega

section finalBlocks
variable {a : Alg} {blk : Nat} (len : Counter) {P : List Byte} (hlf : mdLengthField a < blk)

include hlf in
theorem length_mdWithLength {B : List Byte} (hB : B.length = blk) : (mdWithLength a blk len B).length = blk := by
  rw [mdWithLength, List.length_append, List.length_take, length_mdLengthBytes]
  omega

theorem length_mdFirstPad (hP : P.length < blk) : (mdFirstPad blk P).length = blk := by
  simp [mdFirstPad]
  omega

include hlf in
/-- Every final block is a whole one (R177). -/
theorem length_of_mem_mdFinalBlocks (hP : P.length < blk) : ∀ B ∈ mdFinalBlocks a blk len P, B.length = blk := by
  have hpad := length_mdFirstPad hP
  unfold mdFinalBlocks
  split
  · simp [hpad, length_mdWithLength len hlf (length_zeros blk)]
  · simp [length_mdWithLength len hlf hpad]

include hlf in
/-- The final blocks of a message of `n` bytes are its partial block, then its padding (R173). -/
theorem flatten_mdFinalBlocks {n : Nat} (hP : P.length = n % blk) :
    (mdFinalBlocks a blk (BitVec.ofNat 128 (8 * n)) P).flatten = P ++ mdPadding a blk n := by
  have hlt : P.length < blk := hP ▸ Nat.mod_lt n (by omega)
  have hmod : (n + 1 + mdLengthField a) % blk = (P.length + 1 + mdLengthField a) % blk := by
    rw [hP, Nat.add_assoc, Nat.add_assoc, Nat.mod_add_mod]
  rw [mdPadding, hmod, mdFinalBlocks]
  split
  case isTrue h =>
    have hz : 2 * blk - (P.length + 1 + mdLengthField a) = (blk - P.length - 1) + (blk - mdLengthField a) := by omega
    rw [zeroCount_of_lt (by omega) (by omega), hz]
    simp [mdWithLength, mdFirstPad, zeros_add, take_zeros]
  case isFalse h =>
    have hz : blk - (P.length + 1 + mdLengthField a) = blk - mdLengthField a - P.length - 1 := by omega
    rw [zeroCount_of_le (by omega) (by omega), hz, List.flatten_singleton, mdWithLength,
      take_mdFirstPad (by omega) (by omega)]
    simp

end finalBlocks

theorem mdFinalBlocks_nil {a : Alg} {blk : Nat} (len : Counter) (hlf : mdLengthField a < blk) :
    mdFinalBlocks a blk len [] = [[0x80] ++ zeros (blk - 1 - mdLengthField a) ++ mdLengthBytes a len] := by
  have hz : blk - mdLengthField a - ([] : List Byte).length - 1 = blk - 1 - mdLengthField a := by simp; omega
  rw [mdFinalBlocks, if_neg (by simp; omega), mdWithLength, take_mdFirstPad (by simp; omega) (by omega), hz,
    List.nil_append]

/-! ### The blocks of a message -/

/-- Whole blocks in front are the first blocks of a byte string. -/
theorem blocksOf_flatten_append {n : Nat} (hn : 0 < n) (D : List Byte) {Bs : List (List Byte)}
    (h : ∀ B ∈ Bs, B.length = n) : blocksOf n (Bs.flatten ++ D) = Bs ++ blocksOf n D := by
  induction Bs with
  | nil => rfl
  | cons B Bs ih =>
    obtain ⟨hB, hBs⟩ := List.forall_mem_cons.mp h
    rw [List.flatten_cons, List.append_assoc, blocksOf_append_block hn hB, ih hBs, List.cons_append]

theorem length_flatten_of_forall {n : Nat} {Bs : List (List Byte)} (h : ∀ B ∈ Bs, B.length = n) :
    Bs.flatten.length = Bs.length * n := by
  rw [List.length_flatten, List.map_eq_replicate_iff.mpr h, List.sum_replicate, smul_eq_mul]

/-- From a fresh engine INPUT hands over the whole blocks of the message, as many as it has. -/
theorem length_absorbTrace_freshEngine {c : Cfg} (hok : c.ok = true) (M : List Byte) :
    (absorbTrace c (freshEngine c) M).length = M.length / c.blk.toNat ∧
      (partialBlock (inputBytes c (freshEngine c) M)).length = M.length % c.blk.toNat := by
  obtain ⟨hpos, hblk⟩ := Cfg.blk_of_ok hok
  have hfresh : (freshEngine c).off.toNat < c.blk.toNat := by simpa using hpos
  have hoff := off_absorbBytes_lt hblk M hfresh
  have hlen := congrArg List.length (absorbTrace_flatten_append_partialBlock hblk M hfresh)
  rw [List.length_append, length_flatten_of_forall (length_of_mem_absorbTrace_freshEngine hok M),
    length_partialBlock (hoff.le.trans hblk), partialBlock_freshEngine, List.nil_append] at hlen
  rw [partialBlock_inputBytes, length_partialBlock (hoff.le.trans hblk), ← hlen, Nat.mul_comm,
    Nat.mul_add_div hpos, Nat.mul_add_mod, Nat.div_eq_of_lt hoff, Nat.mod_eq_of_lt hoff]
  exact ⟨rfl, rfl⟩

/-! ### How many blocks finalization takes -/

/-- The final blocks of a partial block: how many there are on either side of the boundary, and their size. -/
theorem mdFinalBlocks_boundary {a : Alg} {blk m : Nat} (len : Counter) {P : List Byte}
    (hm : m + 1 + mdLengthField a = blk) (hP : P.length < blk) :
    (P.length ≤ m → (mdFinalBlocks a blk len P).length = 1) ∧
    (m + 1 ≤ P.length → (mdFinalBlocks a blk len P).length = 2) ∧
    ∀ B ∈ mdFinalBlocks a blk len P, B.length = blk := by
  rw [length_mdFinalBlocks]
  exact ⟨fun h => if_neg (by omega), fun h => if_pos (by omega), length_of_mem_mdFinalBlocks len (by omega) hP⟩

/-- Settles O44: the boundary lies where 0x80 and the length field no longer fit, and the 64 bytes of the SHA-256
message leave an empty partial block. -/
theorem paddingBoundaries : Obligations.PaddingBoundaries := by
  refine ⟨fun a len P ha hP => mdFinalBlocks_boundary len (by omega) hP,
    fun len P hP => mdFinalBlocks_boundary len rfl hP, fun a blk len h => mdFinalBlocks_nil len ?_,
    fun M c hM hc => ?_⟩
  · rcases h with ⟨rfl, ha⟩ | ⟨rfl, rfl⟩
    · omega
    · decide
  · have hok : c.ok = true := by
      subst hc
      decide
    have hblk : c.blk.toNat = 64 := by
      subst hc
      rfl
    obtain ⟨htrace, hpartial⟩ := length_absorbTrace_freshEngine hok M
    rw [hM, hblk] at htrace hpartial
    exact ⟨htrace, by rw [length_mdFinalBlocks, hpartial]; rfl⟩

/-! ### The digest -/

/-- The algorithms of 41_md_framework.md R170. -/
def lengthPaddedAlgs : List Alg := [.md4, .md5, .sha1, .sha2_256, .sha2_512, .ripemd128, .ripemd160]

theorem mdLengthField_lt_blk {c : Cfg} {a : Alg} (hok : c.ok = true) (halg : c.alg = some a)
    (ha : a ∈ lengthPaddedAlgs) : mdLengthField a < c.blk.toNat := by
  rw [Cfg.ok, halg] at hok
  simp only [lengthPaddedAlgs, List.mem_cons, List.not_mem_nil, or_false] at ha
  rcases ha with rfl | rfl | rfl | rfl | rfl | rfl | rfl <;>
    simp_all [mdLengthField]

theorem digestBytes_of_lengthPadded {c : Cfg} {a : Alg} (halg : c.alg = some a) (ha : a ∈ lengthPaddedAlgs)
    (e : Engine) : digestBytes c e = mdFinal a c e (partialBlock e) := by
  simp only [lengthPaddedAlgs, List.mem_cons, List.not_mem_nil, or_false] at ha
  rcases ha with rfl | rfl | rfl | rfl | rfl | rfl | rfl <;> simp only [digestBytes, transformFinal, halg]

/-- Finalization compresses the final blocks, serializes and truncates (R173, R174). -/
theorem mdFinal_eq (a : Alg) (c : Cfg) (e : Engine) (P : List Byte) :
    mdFinal a c e P = (mdSerialize a
      ((mdFinalBlocks a c.blk.toNat e.len P).foldl (mdCompress a) e.mdH)).take c.dlen.toNat := by
  rw [mdFinal, List.foldl_hom Engine.mdH (g₁ := mdTransformBlock a) fun _ _ => rfl]

/-- The registers of an engine that holds a message: the blocks handed over, folded from the IV (R171, R175). -/
theorem Inst.holds.mdH_eq {I : Inst} {M : List Byte} (hM : I.holds M) {a : Alg} (halg : I.cfg.alg = some a) :
    I.eng.mdH = (absorbTrace I.cfg (freshEngine I.cfg) M).foldl (mdCompress a) (mdIV a I.cfg.dsz.toNat) := by
  rw [← mdH_freshEngine halg, List.foldl_hom Engine.mdH (g₁ := transformBlock I.cfg)
    fun e B => (mdH_transformBlock halg e B).symm]
  exact (congrArg Engine.mdH hM.eng_eq_fold).trans rfl

/-- The blocks of the padded message are the blocks that INPUT hands over, then the final blocks. -/
theorem Inst.holds.blocksOf_padded {I : Inst} {M : List Byte} (hM : I.holds M) (hok : I.cfg.ok = true) {a : Alg}
    (hlf : mdLengthField a < I.cfg.blk.toNat) :
    blocksOf I.cfg.blk.toNat (M ++ mdPadding a I.cfg.blk.toNat M.length) =
      absorbTrace I.cfg (freshEngine I.cfg) M ++
        mdFinalBlocks a I.cfg.blk.toNat I.eng.len (partialBlock I.eng) := by
  obtain ⟨hpos, -⟩ := Cfg.blk_of_ok hok
  have hP : (partialBlock I.eng).length = M.length % I.cfg.blk.toNat := by
    rw [hM]
    exact (length_absorbTrace_freshEngine hok M).2
  have hfinal := length_of_mem_mdFinalBlocks I.eng.len hlf (hP ▸ Nat.mod_lt _ hpos)
  have hsplit : M ++ mdPadding a I.cfg.blk.toNat M.length =
      (absorbTrace I.cfg (freshEngine I.cfg) M).flatten ++
        (mdFinalBlocks a I.cfg.blk.toNat I.eng.len (partialBlock I.eng)).flatten := by
    rw [hM.len_eq, flatten_mdFinalBlocks hlf hP, ← List.append_assoc, hM.message_eq hok]
  have hend := blocksOf_flatten_append hpos [] hfinal
  rw [List.append_nil, blocksOf_short (D := []) hpos, List.append_nil] at hend
  rw [hsplit, blocksOf_flatten_append hpos _ (length_of_mem_absorbTrace_freshEngine hok M), hend]

/-- Settles O45: the blocks of the padded message are those that INPUT and finalization compress, in order. -/
theorem mdDigestIsTheHash : Obligations.MdDigestIsTheHash := by
  intro I M a hok halg hM ha
  rw [digestBytes_of_lengthPadded halg ha, mdFinal_eq, hM.mdH_eq halg, ← List.foldl_append,
    ← hM.blocksOf_padded hok (mdLengthField_lt_blk hok halg ha), mdHash]

end Sys2Proof.Machine
end

section
/-! PROOF. MD2 (spec/42_md2_md4_md5.md R191 to R195): the checksum's update and its equivalence with the carried L of
RFC 1319, the S-box, and the buffered digest as the hash of the whole message. -/

namespace Sys2Proof.Machine

/-! ### The checksum of one block -/

theorem length_md2ChecksumLoop (c b : List Byte) (l : Byte) : (md2ChecksumLoop c b l).length = c.length := by
  induction c generalizing b l with
  | nil => simp [md2ChecksumLoop]
  | cons c cs ih =>
    cases b with
    | nil => simp [md2ChecksumLoop]
    | cons b bs => simp [md2ChecksumLoop, ih]

/-- What the loop writes at `j`: the byte written last is the one before it, `l` in front of them all (R191). -/
theorem getD_md2ChecksumLoop {c b : List Byte} (l : Byte) {j : Nat} (hc : j < c.length) (hb : j < b.length) :
    (md2ChecksumLoop c b l).getD j 0 =
      c.getD j 0 ^^^ md2Sub (b.getD j 0 ^^^ (l :: md2ChecksumLoop c b l).getD j 0) := by
  induction c generalizing b l j with
  | nil => cases hc
  | cons c cs ih =>
    cases b with
    | nil => cases hb
    | cons b bs =>
      cases j with
      | zero => rfl
      | succ j => exact ih _ (Nat.lt_of_succ_lt_succ hc) (Nat.lt_of_succ_lt_succ hb)

/-- Padding a byte string of the right length keeps it as it is. -/
theorem toList_padVec_of_length {n : Nat} {bs : List Byte} (h : bs.length = n) : (padVec n bs).toList = bs := by
  refine List.ext_getElem (by simp [h]) fun j hj hj' => ?_
  rw [Vector.getElem_toList, getElem_padVec bs (h ▸ hj'), List.getD_eq_getElem _ _ hj']

theorem toList_md2Checksum (C : Vector Byte 16) (B : List Byte) :
    (md2Checksum C B).toList = md2ChecksumLoop C.toList B C[15] :=
  toList_padVec_of_length ((length_md2ChecksumLoop _ _ _).trans (by simp))

/-- L before byte `j` of a block: the byte written last, C[15] at the start (R191). -/
def md2Last (C : Vector Byte 16) (B : List Byte) (j : Nat) : Byte := (C[15] :: (md2Checksum C B).toList).getD j 0

@[simp] theorem md2Last_zero (C : Vector Byte 16) (B : List Byte) : md2Last C B 0 = C[15] := rfl

theorem md2Last_succ (C : Vector Byte 16) (B : List Byte) {j : Nat} (hj : j < 16) :
    md2Last C B (j + 1) = (md2Checksum C B)[j] := by
  simp [md2Last, hj]

theorem md2Last_eq_ite (C : Vector Byte 16) (B : List Byte) (j : Nat) :
    md2Last C B j = if j = 0 then C[15] else (md2Checksum C B).toList.getD (j - 1) 0 := by
  cases j with
  | zero => exact (if_pos rfl).symm
  | succ j => rw [if_neg j.succ_ne_zero, md2Last, List.getD_cons_succ, Nat.add_sub_cancel]

/-- The update of one checksum byte (R191). -/
theorem getElem_md2Checksum (C : Vector Byte 16) {B : List Byte} (hB : B.length = 16) {j : Nat} (hj : j < 16) :
    (md2Checksum C B)[j] = C[j] ^^^ md2Sub (B.getD j 0 ^^^ md2Last C B j) := by
  have h := getD_md2ChecksumLoop (c := C.toList) (b := B) C[15] (j := j) (by simpa using hj) (hB ▸ hj)
  rw [← toList_md2Checksum] at h
  simpa [hj, md2Last] using h

/-! ### The carried L -/

/-- The first `n` bytes of `D`, then those of `C`: the checksum after `n` of the 16 bytes of a block. -/
def splice (C D : Vector Byte 16) (n : Nat) : Vector Byte 16 := Vector.ofFn fun i => if i.1 < n then D[i] else C[i]

@[simp] theorem splice_zero (C D : Vector Byte 16) : splice C D 0 = C := by
  ext i hi : 1
  simp [splice]

@[simp] theorem splice_all (C D : Vector Byte 16) : splice C D 16 = D := by
  ext i hi : 1
  simp [splice]

theorem splice_getElem (C D : Vector Byte 16) (j : Fin 16) : (splice C D j)[j] = C[j] := by
  simp [splice]

theorem set_splice (C D : Vector Byte 16) (j : Fin 16) : (splice C D j).set j D[j] = splice C D (j + 1) := by
  ext i hi : 1
  rw [Vector.getElem_set]
  split
  case isTrue h =>
    subst h
    simp [splice]
  case isFalse h =>
    have hlt : i < j.1 + 1 ↔ i < j.1 := by omega
    simp only [splice, Vector.getElem_ofFn, hlt]

/-- One byte of RFC 1319's checksum writes the next byte of the checksum, and L is that byte. -/
theorem md2CarriedByte_splice (C : Vector Byte 16) {B : List Byte} (hB : B.length = 16) (j : Fin 16) :
    md2CarriedByte B (splice C (md2Checksum C B) j, md2Last C B j) j =
      (splice C (md2Checksum C B) (j + 1), md2Last C B (j + 1)) := by
  have hbyte : (splice C (md2Checksum C B) j)[j] ^^^ md2Sub (B.getD j.1 0 ^^^ md2Last C B j) =
      (md2Checksum C B)[j] := by
    rw [splice_getElem]
    exact (getElem_md2Checksum C hB j.2).symm
  simp only [md2CarriedByte, hbyte]
  rw [set_splice, md2Last_succ C B j.2, Fin.getElem_fin]

/-- Over one block, L carried in as C[15] gives the same checksum and its C[15] (R191). -/
theorem md2CarriedBlock_eq (C : Vector Byte 16) {B : List Byte} (hB : B.length = 16) :
    md2CarriedBlock (C, C[15]) B = (md2Checksum C B, (md2Checksum C B)[15]) := by
  have hprefix : ∀ n ≤ 16, ((List.finRange 16).take n).foldl (md2CarriedByte B) (C, C[15]) =
      (splice C (md2Checksum C B) n, md2Last C B n) := by
    intro n
    induction n with
    | zero => simp
    | succ n ih =>
      intro hn
      rw [List.take_succ_eq_append_getElem (by simpa using hn), List.foldl_append, ih (by omega),
        List.getElem_finRange]
      exact md2CarriedByte_splice C hB ⟨n, hn⟩
  have hall := hprefix 16 le_rfl
  rwa [splice_all, md2Last_succ C B (by decide), List.take_of_length_le (by simp)] at hall

/-- Over any blocks, by the block before: L stays C[15]. -/
theorem foldl_md2CarriedBlock {Bs : List (List Byte)} (h : ∀ B ∈ Bs, B.length = 16) (C : Vector Byte 16) :
    Bs.foldl md2CarriedBlock (C, C[15]) = (Bs.foldl md2Checksum C, (Bs.foldl md2Checksum C)[15]) := by
  induction Bs generalizing C with
  | nil => rfl
  | cons B Bs ih =>
    obtain ⟨hB, hBs⟩ := List.forall_mem_cons.mp h
    rw [List.foldl_cons, md2CarriedBlock_eq C hB, ih hBs, List.foldl_cons]

/-! ### The S-box -/

theorem length_md2SBox : md2SBox.length = 256 := by decide +kernel

/-- Every byte value stands in the table (R194). -/
theorem mem_md2SBox : ∀ n < 256, n ∈ md2SBox.map BitVec.toNat := by decide +kernel

theorem md2Sub_surjective : Function.Surjective md2Sub := by
  intro b
  obtain ⟨b', hmem, hb⟩ := List.mem_map.mp (mem_md2SBox b.toNat b.isLt)
  obtain ⟨i, hi, rfl⟩ := List.mem_iff_getElem.mp hmem
  have hi256 : i < 2 ^ 8 := by simpa [length_md2SBox] using hi
  refine ⟨BitVec.ofNat 8 i, ?_⟩
  rw [md2Sub, BitVec.toNat_ofNat, Nat.mod_eq_of_lt hi256, List.getD_eq_getElem _ _ hi]
  exact BitVec.eq_of_toNat_eq hb

/-- Settles O47: the update byte by byte, the blocks by induction, the S-box by its rows and as a surjection of a
finite type. -/
theorem md2ChecksumAndSBox : Obligations.Md2ChecksumAndSBox := by
  refine ⟨fun C B hB j => ?_, fun Bs hBs => foldl_md2CarriedBlock hBs (Vector.replicate 16 0), by decide +kernel,
    Finite.surjective_iff_bijective.mp md2Sub_surjective⟩
  rw [Fin.getElem_fin, Fin.getElem_fin, getElem_md2Checksum C hB j.2, md2Last_eq_ite]

/-! ### The digest -/

/-- A field that the block hook updates by `g` and the buffer does not touch is a fold of `g` over the blocks that
INPUT hands over. -/
theorem Inst.holds.field_eq_foldl {I : Inst} {M : List Byte} (hM : I.holds M) {β : Type} (f : Engine → β)
    {g : β → List Byte → β} (hblock : ∀ e B, f (transformBlock I.cfg e B) = g (f e) B)
    (hbuf : ∀ e buf off len, f (e.setBuffer buf off len) = f e) :
    f I.eng = (absorbTrace I.cfg (freshEngine I.cfg) M).foldl g (f (freshEngine I.cfg)) := by
  rw [List.foldl_hom f (g₁ := transformBlock I.cfg) fun e B => (hblock e B).symm]
  exact (congrArg f hM.eng_eq_fold).trans (hbuf _ _ _ _)

theorem transformBlock_of_md2 {c : Cfg} (hc : c.alg = some .md2) (e : Engine) (B : List Byte) :
    transformBlock c e B = md2TransformBlock e B := by
  simp only [transformBlock, hc]

theorem digestBytes_of_md2 {c : Cfg} (hc : c.alg = some .md2) (e : Engine) :
    digestBytes c e = md2Final e (partialBlock e) := by
  simp only [digestBytes, transformFinal, hc]

section holds
variable {I : Inst} {M : List Byte} (hM : I.holds M) (halg : I.cfg.alg = some .md2)
include hM halg

/-- The chaining state of an engine that holds a message: the blocks handed over, compressed from zero (R192). -/
theorem Inst.holds.md2X_eq : I.eng.md2X =
    (absorbTrace I.cfg (freshEngine I.cfg) M).foldl md2Compress (Vector.replicate 16 0) := by
  rw [hM.field_eq_foldl Engine.md2X (g := md2Compress) (fun e B => by rw [transformBlock_of_md2 halg]; rfl)
      fun _ _ _ _ => rfl, freshEngine_of_ne_blake2b halg nofun]
  rfl

/-- The checksum of an engine that holds a message: that of the blocks handed over (R191). -/
theorem Inst.holds.md2C_eq : I.eng.md2C =
    (absorbTrace I.cfg (freshEngine I.cfg) M).foldl md2Checksum (Vector.replicate 16 0) := by
  rw [hM.field_eq_foldl Engine.md2C (g := md2Checksum) (fun e B => by rw [transformBlock_of_md2 halg]; rfl)
      fun _ _ _ _ => rfl, freshEngine_of_ne_blake2b halg nofun]
  rfl

end holds

theorem Cfg.blk_of_md2 {c : Cfg} (hok : c.ok = true) (hc : c.alg = some .md2) : c.blk.toNat = 16 := by
  have hblk : c.blk = 16 := by simp_all [Cfg.ok]
  rw [hblk]
  rfl

theorem length_md2Pad {P : List Byte} (hP : P.length < 16) : (md2Pad P).length = 16 := by
  rw [md2Pad, List.length_append, List.length_replicate]
  omega

/-- The blocks of the padded message are the blocks that INPUT hands over, then the padded last one (R195). -/
theorem Inst.holds.blocksOf_md2Padded {I : Inst} {M : List Byte} (hM : I.holds M) (hok : I.cfg.ok = true)
    (halg : I.cfg.alg = some .md2) :
    blocksOf 16 (M ++ md2Padding M.length) =
      absorbTrace I.cfg (freshEngine I.cfg) M ++ [md2Pad (partialBlock I.eng)] := by
  have hblk := Cfg.blk_of_md2 hok halg
  have hP : (partialBlock I.eng).length = M.length % 16 := by
    rw [← hblk, hM]
    exact (length_absorbTrace_freshEngine hok M).2
  have hsplit : M ++ md2Padding M.length =
      (absorbTrace I.cfg (freshEngine I.cfg) M ++ [md2Pad (partialBlock I.eng)]).flatten ++ [] := by
    rw [List.flatten_append, List.flatten_singleton, md2Pad, hP, ← List.append_assoc, hM.message_eq hok,
      List.append_nil]
    rfl
  have hlen : ∀ B ∈ absorbTrace I.cfg (freshEngine I.cfg) M ++ [md2Pad (partialBlock I.eng)], B.length = 16 := by
    rw [List.forall_mem_append, List.forall_mem_singleton]
    exact ⟨hblk ▸ length_of_mem_absorbTrace_freshEngine hok M, length_md2Pad (hP ▸ Nat.mod_lt _ (by decide))⟩
  rw [hsplit, blocksOf_flatten_append (by decide) [] hlen, blocksOf_short (by decide), List.append_nil]

/-- Settles O48: finalization compresses the padded last block and then the checksum, which are the end of the whole
message's blocks and their checksum. -/
theorem md2DigestIsTheHash : Obligations.Md2DigestIsTheHash := by
  intro I M hok halg hM
  simp only [digestBytes_of_md2 halg, md2Final, md2TransformBlock, md2Hash, hM.blocksOf_md2Padded hok halg,
    List.foldl_append, List.foldl_cons, List.foldl_nil, hM.md2X_eq halg, hM.md2C_eq halg]

end Sys2Proof.Machine
end

section
/-! PROOF. The message schedules of SHA-1, SHA-2-256 and SHA-2-512 (spec/43_sha1_sha2.md R221, R225, R230): the
sixteen words of the block, then the words of the recurrence. -/

namespace Sys2Proof.Machine

/-! ### Extending a schedule by a recurrence -/

/-- Word `t` of the recurrence depends on the words before `t` only, so that a longer schedule gives the same
word. -/
def ReadsEarlierWords {N : Nat} (f : List (BitVec N) → Nat → BitVec N) : Prop :=
  ∀ (W W' : List (BitVec N)) (t : Nat), 0 < t → (∀ i < t, W.getD i 0 = W'.getD i 0) → f W t = f W' t

@[simp] theorem length_extendSchedule {N : Nat} (f : List (BitVec N) → Nat → BitVec N) (k : Nat)
    (W : List (BitVec N)) : (extendSchedule f k W).length = W.length + k := by
  induction k generalizing W with
  | zero => rfl
  | succ k ih =>
    rw [extendSchedule, ih, List.length_append, List.length_singleton]
    omega

/-- The words that stand in a schedule are kept. -/
theorem getD_extendSchedule_of_lt {N : Nat} (f : List (BitVec N) → Nat → BitVec N) (k : Nat)
    {W : List (BitVec N)} {t : Nat} (ht : t < W.length) : (extendSchedule f k W).getD t 0 = W.getD t 0 := by
  induction k generalizing W with
  | zero => rfl
  | succ k ih =>
    rw [extendSchedule, ih (by rw [List.length_append]; omega), List.getD_append _ _ _ _ ht]

/-- A word that is added satisfies the recurrence on the finished schedule, not only on the words before it. -/
theorem getD_extendSchedule_of_ge {N : Nat} {f : List (BitVec N) → Nat → BitVec N} (hf : ReadsEarlierWords f)
    {k : Nat} {W : List (BitVec N)} {t : Nat} (hpos : 0 < t) (hge : W.length ≤ t) (hlt : t < W.length + k) :
    (extendSchedule f k W).getD t 0 = f (extendSchedule f k W) t := by
  induction k generalizing W with
  | zero => omega
  | succ k ih =>
    have hlen : (W ++ [f W W.length]).length = W.length + 1 := List.length_append
    obtain rfl | hgt := hge.eq_or_lt
    · have hkept : ∀ i < W.length, W.getD i 0 = (extendSchedule f (k + 1) W).getD i 0 :=
        fun i hi => (getD_extendSchedule_of_lt f (k + 1) hi).symm
      calc (extendSchedule f (k + 1) W).getD W.length 0
          = (W ++ [f W W.length]).getD W.length 0 := getD_extendSchedule_of_lt f k (by omega)
        _ = f W W.length := by rw [List.getD_append_right _ _ _ _ le_rfl, Nat.sub_self, List.getD_cons_zero]
        _ = f (extendSchedule f (k + 1) W) W.length := hf _ _ _ hpos hkept
    · exact ih (by omega) (by omega)

/-- The schedule that extends sixteen words `g 0` to `g 15`: these words, then the recurrence. -/
theorem getD_extendSchedule_map_range {N : Nat} {f : List (BitVec N) → Nat → BitVec N} (hf : ReadsEarlierWords f)
    (g : Nat → BitVec N) {k t : Nat} (ht : t < 16 + k) :
    (extendSchedule f k ((List.range 16).map g)).getD t 0 =
      if t < 16 then g t else f (extendSchedule f k ((List.range 16).map g)) t := by
  have hlen : ((List.range 16).map g).length = 16 := by rw [List.length_map, List.length_range]
  split
  case isTrue h =>
    rw [getD_extendSchedule_of_lt f k (by omega), List.getD_eq_getElem _ _ (by omega), List.getElem_map,
      List.getElem_range]
  case isFalse h => exact getD_extendSchedule_of_ge hf (by omega) (by omega) (by omega)

/-! ### The three schedules -/

theorem readsEarlierWords_sha1Recurrence : ReadsEarlierWords sha1Recurrence := by
  intro W W' t ht h
  simp only [sha1Recurrence, h _ (Nat.sub_lt ht (Nat.succ_pos _))]

theorem readsEarlierWords_sha2Recurrence {N : Nat} (s0 s1 : BitVec N → BitVec N) :
    ReadsEarlierWords (sha2Recurrence s0 s1) := by
  intro W W' t ht h
  simp only [sha2Recurrence, h _ (Nat.sub_lt ht (Nat.succ_pos _))]

@[simp] theorem length_wordsBe32 (B : List Byte) : (wordsBe32 B).length = 16 := by
  rw [wordsBe32, List.length_map, List.length_range]

@[simp] theorem length_wordsBe64 (B : List Byte) : (wordsBe64 B).length = 16 := by
  rw [wordsBe64, List.length_map, List.length_range]

@[simp] theorem length_sha1Schedule (B : List Byte) : (sha1Schedule B).length = 80 := by
  rw [sha1Schedule, length_extendSchedule, length_wordsBe32]

@[simp] theorem length_sha256Schedule (B : List Byte) : (sha256Schedule B).length = 64 := by
  rw [sha256Schedule, length_extendSchedule, length_wordsBe32]

@[simp] theorem length_sha512Schedule (B : List Byte) : (sha512Schedule B).length = 80 := by
  rw [sha512Schedule, length_extendSchedule, length_wordsBe64]

theorem getD_sha1Schedule (B : List Byte) {t : Nat} (ht : t < 80) :
    (sha1Schedule B).getD t 0 = if t < 16 then be32 B (4 * t) else sha1Recurrence (sha1Schedule B) t :=
  getD_extendSchedule_map_range readsEarlierWords_sha1Recurrence (fun j => be32 B (4 * j)) ht

theorem getD_sha256Schedule (B : List Byte) {t : Nat} (ht : t < 64) :
    (sha256Schedule B).getD t 0 =
      if t < 16 then be32 B (4 * t) else sha2Recurrence sha256Sigma0 sha256Sigma1 (sha256Schedule B) t :=
  getD_extendSchedule_map_range (readsEarlierWords_sha2Recurrence _ _) (fun j => be32 B (4 * j)) ht

theorem getD_sha512Schedule (B : List Byte) {t : Nat} (ht : t < 80) :
    (sha512Schedule B).getD t 0 =
      if t < 16 then be64 B (8 * t) else sha2Recurrence sha512Sigma0 sha512Sigma1 (sha512Schedule B) t :=
  getD_extendSchedule_map_range (readsEarlierWords_sha2Recurrence _ _) (fun j => be64 B (8 * j)) ht

/-- Settles O46: each schedule extends the block's words by its recurrence, which reads earlier words only. -/
theorem messageSchedules : Obligations.MessageSchedules := by
  intro B
  exact ⟨⟨length_sha1Schedule B, fun _ => getD_sha1Schedule B⟩,
    ⟨length_sha256Schedule B, fun _ => getD_sha256Schedule B⟩,
    ⟨length_sha512Schedule B, fun _ => getD_sha512Schedule B⟩⟩

end Sys2Proof.Machine
end

section
/-! PROOF. The views and the five steps of Keccak-f[1600] (spec/45_keccak_permutation.md R280 to R285), lane by
lane. A step is stated at `laneAt` for any two coordinates, which `laneAt` takes mod 5, so that no later proof
computes an index. -/

namespace Sys2Proof.Machine

/-! ### Lanes by their coordinates -/

@[simp] theorem laneAt_mod_left (A : Lanes) (x y : Nat) : laneAt A (x % 5) y = laneAt A x y := by
  simp only [laneAt, Nat.mod_mod]

@[simp] theorem laneAt_mod_right (A : Lanes) (x y : Nat) : laneAt A x (y % 5) = laneAt A x y := by
  simp only [laneAt, Nat.mod_mod]

theorem laneAt_congr (A : Lanes) {x x' y y' : Nat} (hx : x % 5 = x' % 5) (hy : y % 5 = y' % 5) :
    laneAt A x y = laneAt A x' y' := by
  simp only [laneAt, hx, hy]

theorem laneAt_index (A : Lanes) {i : Nat} (hi : i < 25) : laneAt A (i % 5) (i / 5) = A[i] := by
  have hindex : i % 5 % 5 + 5 * (i / 5 % 5) = i := by omega
  simp only [laneAt, hindex]

/-- The lane of an array that is given by its linear indices. -/
theorem laneAt_ofFn (f : Fin 25 → Lane) (x y : Nat) :
    laneAt (Vector.ofFn f) x y = f ⟨x % 5 + 5 * (y % 5), by omega⟩ := by
  rw [laneAt, Vector.getElem_ofFn]

theorem lanes_ext {A B : Lanes} (h : ∀ x y, laneAt A x y = laneAt B x y) : A = B := by
  refine Vector.ext fun i hi => ?_
  rw [← laneAt_index A hi, ← laneAt_index B hi, h]

/-! ### The byte view and the lane view -/

theorem getD_putLe (n v : Nat) {j : Nat} (hj : j < n) : (putLe n v).getD j 0 = BitVec.ofNat 8 (v / 2 ^ (8 * j)) := by
  induction n generalizing v j with
  | zero => omega
  | succ n ih =>
    cases j with
    | zero => simp [putLe]
    | succ j =>
      rw [putLe, List.getD_cons_succ, ih _ (by omega), Nat.div_div_eq_div_mul, Nat.mul_succ, Nat.add_comm (8 * j),
        Nat.pow_add]

theorem getD_putLe64 (v : Lane) {j : Nat} (hj : j < 8) : (putLe64 v).getD j 0 = v.extractLsb' (8 * j) 8 := by
  rw [putLe64, getD_putLe 8 _ hj, BitVec.extractLsb', Nat.shiftRight_eq_div_pow]

@[simp] theorem length_putLe64 (v : Lane) : (putLe64 v).length = 8 := length_putLe ..

/-- Eight bytes a lane: what stands at byte `8i` are the bytes of lane `i`. -/
theorem bytesAt_flatMap_putLe64 {L : List Lane} {i : Nat} (hi : i < L.length) :
    bytesAt (L.flatMap putLe64) (8 * i) 8 = putLe64 L[i] := by
  induction L generalizing i with
  | nil => exact absurd hi (Nat.not_lt_zero _)
  | cons v L ih =>
    cases i with
    | zero => simp [bytesAt]
    | succ i =>
      rw [List.getElem_cons_succ, ← ih (Nat.lt_of_succ_lt_succ hi), bytesAt, bytesAt, List.flatMap_cons, Nat.mul_succ,
        Nat.add_comm, ← List.drop_drop, List.drop_left' (length_putLe64 v)]

theorem bytesAt_bytesOfLanes (A : Lanes) {i : Nat} (hi : i < 25) :
    bytesAt (bytesOfLanes A) (8 * i) 8 = putLe64 A[i] := by
  rw [bytesOfLanes, bytesAt_flatMap_putLe64 (by rwa [Vector.length_toList]), Vector.getElem_toList]

theorem getD_bytesOfLanes (A : Lanes) {i j : Nat} (hi : i < 25) (hj : j < 8) :
    (bytesOfLanes A).getD (8 * i + j) 0 = A[i].extractLsb' (8 * j) 8 := by
  rw [← getD_bytesAt _ _ hj, bytesAt_bytesOfLanes A hi, getD_putLe64 _ hj]

theorem getElem_lanesOfBytes (S : List Byte) {i : Nat} (hi : i < 25) : (lanesOfBytes S)[i] = le64 S (8 * i) :=
  Vector.getElem_ofFn hi

@[simp] theorem lanesOfBytes_bytesOfLanes (A : Lanes) : lanesOfBytes (bytesOfLanes A) = A := by
  refine Vector.ext fun i hi => ?_
  have hload : le64 (bytesOfLanes A) (8 * i) = le64 (putLe64 A[i]) 0 := by
    rw [le64, le64, bytesAt_bytesOfLanes A hi, bytesAt_self (length_putLe64 _)]
  rw [getElem_lanesOfBytes _ hi, hload, le64_putLe64]

/-- Settles O49: each lane is eight bytes of the byte view, and loading them again is the lane. -/
theorem laneByteView : Obligations.LaneByteView := by
  intro A
  refine ⟨fun x y i hi => ?_, length_bytesOfLanes A, fun i j => getD_bytesOfLanes A i.2 j.2,
    fun S i => getElem_lanesOfBytes S i.2, lanesOfBytes_bytesOfLanes A⟩
  have hx : x.1 % 5 = i.1 % 5 % 5 := by omega
  have hy : y.1 % 5 = i.1 / 5 % 5 := by omega
  exact (laneAt_congr A hx hy).trans (laneAt_index A i.2)

/-! ### The five steps -/

theorem columnParity_mod (A : Lanes) (x : Nat) : columnParity A (x % 5) = columnParity A x := by
  simp only [columnParity, laneAt_mod_left]

/-- R281, the neighbour columns x − 1 and x + 1 being x + 4 and x + 1 mod 5. -/
theorem laneAt_theta (A : Lanes) (x y : Nat) :
    laneAt (theta A) x y =
      laneAt A x y ^^^ (columnParity A (x + 4) ^^^ rotl (columnParity A (x + 1)) 1) := by
  have hx : (x % 5 + 5 * (y % 5)) % 5 = x % 5 := by omega
  rw [theta, laneAt_ofFn, thetaEffect]
  simp only [columnParities, Vector.getElem_ofFn, columnParity_mod, hx, Nat.mod_add_mod]
  rfl

/-- R282. -/
theorem laneAt_rho (A : Lanes) (x y : Nat) :
    laneAt (rho A) x y = rotl (laneAt A x y) (rhoTable.getD (x % 5 + 5 * (y % 5)) 0) :=
  laneAt_ofFn _ x y

/-- R283, the new lane by the old one. -/
theorem laneAt_piStep (A : Lanes) (x y : Nat) : laneAt (piStep A) x y = laneAt A (x + 3 * y) x := by
  rw [piStep, laneAt_ofFn]
  exact laneAt_congr A (by dsimp only; omega) (by dsimp only; omega)

/-- R283, where the old lane goes. -/
theorem laneAt_piStep_target (A : Lanes) (x y : Nat) : laneAt (piStep A) y (2 * x + 3 * y) = laneAt A x y := by
  rw [laneAt_piStep]
  exact laneAt_congr A (by omega) rfl

/-- R284. -/
theorem laneAt_chi (A : Lanes) (x y : Nat) :
    laneAt (chi A) x y = laneAt A x y ^^^ (~~~(laneAt A (x + 1) y) &&& laneAt A (x + 2) y) := by
  have hx : (x % 5 + 5 * (y % 5)) % 5 = x % 5 := by omega
  have hy : (x % 5 + 5 * (y % 5)) / 5 = y % 5 := by omega
  have hnext : laneAt A (x % 5 + 1) y = laneAt A (x + 1) y := laneAt_congr A (Nat.mod_add_mod ..) rfl
  have hafter : laneAt A (x % 5 + 2) y = laneAt A (x + 2) y := laneAt_congr A (Nat.mod_add_mod ..) rfl
  rw [chi, laneAt_ofFn]
  simp only [hx, hy, laneAt_mod_right, hnext, hafter]
  rfl

/-- R285. -/
theorem laneAt_iota (rnd : Nat) (A : Lanes) (x y : Nat) :
    laneAt (iota rnd A) x y =
      if x % 5 = 0 ∧ y % 5 = 0 then laneAt A 0 0 ^^^ keccakRC.getD rnd 0 else laneAt A x y := by
  have hzero : 0 = x % 5 + 5 * (y % 5) ↔ x % 5 = 0 ∧ y % 5 = 0 := by omega
  simp only [iota, laneAt, Vector.getElem_set, hzero]

/-- Settles O50: each step by its lemma above, the coordinates being below 5. -/
theorem keccakSteps : Obligations.KeccakSteps := by
  intro A x y rnd C D hC hD
  have hcolumn : C = columnParity A := funext hC
  have hindex : x.1 % 5 + 5 * (y.1 % 5) = x.1 + 5 * y.1 := by omega
  have horigin : (x.1 % 5 = 0 ∧ y.1 % 5 = 0) ↔ (x = 0 ∧ y = 0) := by omega
  refine ⟨?theta, ?rho, ?piTarget, ?piSource, ?chi, ?iota⟩
  case theta => rw [laneAt_theta, hD, hcolumn, columnParity_mod, columnParity_mod]
  case rho => rw [laneAt_rho, hindex, rhoTable]
  case piTarget => rw [laneAt_mod_right, laneAt_piStep_target]
  case piSource => rw [laneAt_mod_left, laneAt_piStep]
  case chi => rw [laneAt_mod_left, laneAt_mod_left, laneAt_chi]
  case iota =>
    rw [laneAt_iota]
    refine if_congr horigin (congrArg _ ?_) rfl
    revert rnd
    decide

end Sys2Proof.Machine
end

section
/-! PROOF. Keccak-f[1600] is a bijection (spec/45_keccak_permutation.md R286): every step is injective, so a round
is, so 24 rounds are, and the states are finitely many. -/

namespace Sys2Proof.Machine

/-! ### Rotations compose -/

theorem getLsbD_rotl {N : Nat} (v : BitVec N) (k : Nat) {i : Nat} (hi : i < N) :
    (rotl v k).getLsbD i = v.getLsbD ((i + (N - k % N)) % N) := by
  have hk : k % N < N := Nat.mod_lt _ (by omega)
  rw [rotl, BitVec.getLsbD_rotateLeft, decide_eq_true hi, Bool.true_and, Bool.cond_decide]
  split
  case isTrue h => rw [Nat.mod_eq_of_lt (a := i + (N - k % N)) (by omega), Nat.add_comm]
  case isFalse h =>
    have hwrap : i + (N - k % N) = (i - k % N) + N := by omega
    rw [hwrap, Nat.add_mod_right, Nat.mod_eq_of_lt (a := i - k % N) (by omega)]

theorem rotl_rotl (v : Lane) (j k : Nat) : rotl (rotl v j) k = rotl v (j + k) := by
  refine BitVec.eq_of_getLsbD_eq fun i hi => ?_
  have hshift : ((i + (64 - k % 64)) % 64 + (64 - j % 64)) % 64 = (i + (64 - (j + k) % 64)) % 64 := by omega
  rw [getLsbD_rotl _ _ hi, getLsbD_rotl _ _ (Nat.mod_lt _ (by decide)), getLsbD_rotl _ _ hi, hshift]

theorem rotl_xor (v w : Lane) (k : Nat) : rotl (v ^^^ w) k = rotl v k ^^^ rotl w k := by
  refine BitVec.eq_of_getLsbD_eq fun i hi => ?_
  simp only [BitVec.getLsbD_xor, getLsbD_rotl _ _ hi]

theorem rotl_mul_width (v : Lane) (k : Nat) : rotl v (64 * k) = v := by
  rw [rotl, ← BitVec.rotateLeft_mod_eq_rotateLeft, Nat.mul_mod_right]
  exact rotl_zero v

/-- Turning on by 63 times the distance completes whole turns. -/
theorem rotl_injective (k : Nat) : Function.Injective fun v : Lane => rotl v k :=
  Function.LeftInverse.injective (g := fun v => rotl v (63 * k)) fun v => by
    have hturns : k + 63 * k = 64 * k := by omega
    dsimp only
    rw [rotl_rotl, hturns, rotl_mul_width]

/-! ### θ -/

theorem xor_left_comm (u v w : Lane) : u ^^^ (v ^^^ w) = v ^^^ (u ^^^ w) := by
  rw [← xor_assoc, xor_comm u v, xor_assoc]

/-- What θ with the distance `k` makes of the column parities (R281 for k = 1). -/
def thetaColumns (k : Nat) (C : Nat → Lane) (x : Nat) : Lane := C x ^^^ C (x + 4 * k) ^^^ rotl (C (x + k)) k

/-- A column of θ is its parity with five times the effect, which is one time. -/
theorem columnParity_theta (A : Lanes) : columnParity (theta A) = thetaColumns 1 (columnParity A) := by
  funext x
  rw [columnParity]
  simp only [laneAt_theta, thetaColumns]
  generalize columnParity A (x + 4) = C4
  generalize rotl (columnParity A (x + 1)) 1 = C1
  rw [columnParity]
  simp only [xor_assoc, xor_left_comm, xor_cancel_left]

/-- Squaring doubles the distance: in characteristic 2 the mixed terms cancel. -/
theorem thetaColumns_thetaColumns (k : Nat) (C : Nat → Lane) :
    thetaColumns k (thetaColumns k C) = thetaColumns (2 * k) C := by
  funext x
  have h8 : x + 4 * k + 4 * k = x + 4 * (2 * k) := by omega
  have h5 : x + 4 * k + k = x + k + 4 * k := by omega
  have h2 : x + k + k = x + 2 * k := by omega
  simp only [thetaColumns, rotl_xor, rotl_rotl, h8, h5, h2, ← Nat.two_mul]
  simp only [xor_assoc, xor_left_comm, xor_cancel_left]

theorem iterate_thetaColumns (n : Nat) : (thetaColumns 1)^[2 ^ n] = thetaColumns (2 ^ n) := by
  induction n with
  | zero => rfl
  | succ n ih =>
    funext C
    rw [Nat.pow_succ', Nat.two_mul, Function.iterate_add_apply, ih, thetaColumns_thetaColumns, Nat.two_mul]

theorem eq_of_mod_five {C : Nat → Lane} (hC : ∀ x, C (x % 5) = C x) {x x' : Nat} (h : x % 5 = x' % 5) :
    C x = C x' := by
  rw [← hC x, ← hC x', h]

/-- At distance 64 nothing is rotated. -/
theorem thetaColumns_64 {C : Nat → Lane} (hC : ∀ x, C (x % 5) = C x) (x : Nat) :
    thetaColumns 64 C x = C x ^^^ C (x + 1) ^^^ C (x + 4) := by
  have h256 : C (x + 4 * 64) = C (x + 1) := eq_of_mod_five hC (by omega)
  have h64 : C (x + 64) = C (x + 4) := eq_of_mod_five hC (by omega)
  rw [thetaColumns, h256, h64, rotl_mul_width _ 1]

/-- The sums of three neighbours determine the columns: three of these sums add up to one column. -/
theorem eq_xor_thetaColumns_64 {C : Nat → Lane} (hC : ∀ x, C (x % 5) = C x) (x : Nat) :
    C x = thetaColumns 64 C x ^^^ thetaColumns 64 C (x + 2) ^^^ thetaColumns 64 C (x + 3) := by
  have h6 : C (x + 6) = C (x + 1) := eq_of_mod_five hC (by omega)
  have h7 : C (x + 7) = C (x + 2) := eq_of_mod_five hC (by omega)
  simp only [thetaColumns_64 hC, Nat.add_assoc, Nat.reduceAdd, h6, h7]
  simp only [xor_assoc, xor_left_comm, xor_cancel_left, LawfulXor.xor_self, xor_zero]

theorem thetaColumns_injective {C C' : Nat → Lane} (hC : ∀ x, C (x % 5) = C x) (hC' : ∀ x, C' (x % 5) = C' x)
    (h : thetaColumns 1 C = thetaColumns 1 C') : C = C' := by
  have h64 : thetaColumns 64 C = thetaColumns 64 C' :=
    calc thetaColumns 64 C
        = (thetaColumns 1)^[63] (thetaColumns 1 C) := congrFun (iterate_thetaColumns 6).symm C
      _ = (thetaColumns 1)^[63] (thetaColumns 1 C') := by rw [h]
      _ = thetaColumns 64 C' := congrFun (iterate_thetaColumns 6) C'
  funext x
  rw [eq_xor_thetaColumns_64 hC, eq_xor_thetaColumns_64 hC', h64]

theorem theta_injective : Function.Injective theta := by
  intro A B h
  have hcolumns : columnParity A = columnParity B :=
    thetaColumns_injective (columnParity_mod A) (columnParity_mod B) (by
      rw [← columnParity_theta, ← columnParity_theta, h])
  refine lanes_ext fun x y => ?_
  have hlane : laneAt (theta A) x y = laneAt (theta B) x y := by rw [h]
  rwa [laneAt_theta, laneAt_theta, hcolumns, BitVec.xor_left_inj] at hlane

/-! ### ρ, π, χ and ι -/

theorem rho_injective : Function.Injective rho := by
  intro A B h
  refine lanes_ext fun x y => rotl_injective (rhoTable.getD (x % 5 + 5 * (y % 5)) 0) ?_
  dsimp only
  rw [← laneAt_rho, ← laneAt_rho, h]

theorem piStep_injective : Function.Injective piStep := by
  intro A B h
  refine lanes_ext fun x y => ?_
  rw [← laneAt_piStep_target A, ← laneAt_piStep_target B, h]

/-- The inverse of χ on one bit position of a row. -/
theorem chi_bit_inverse : ∀ a b c d e : Bool,
    a = ((a ^^ (!b && c)) ^^ (!(b ^^ (!c && d)) && ((c ^^ (!d && e)) ^^ (!(d ^^ (!e && a)) && (e ^^ (!a && b)))))) := by
  decide

/-- The inverse of χ: each old lane from the new row. -/
theorem laneAt_eq_of_chi (A : Lanes) (x y : Nat) :
    laneAt A x y = laneAt (chi A) x y ^^^ (~~~laneAt (chi A) (x + 1) y &&& (laneAt (chi A) (x + 2) y ^^^
      (~~~laneAt (chi A) (x + 3) y &&& laneAt (chi A) (x + 4) y))) := by
  have h5 : laneAt A (x + 5) y = laneAt A x y := laneAt_congr A (by omega) rfl
  have h6 : laneAt A (x + 6) y = laneAt A (x + 1) y := laneAt_congr A (by omega) rfl
  simp only [laneAt_chi, Nat.add_assoc, Nat.reduceAdd, h5, h6]
  refine BitVec.eq_of_getLsbD_eq fun i hi => ?_
  simp only [BitVec.getLsbD_xor, BitVec.getLsbD_and, BitVec.getLsbD_not, decide_eq_true hi, Bool.true_and]
  exact chi_bit_inverse ..

theorem chi_injective : Function.Injective chi := by
  intro A B h
  refine lanes_ext fun x y => ?_
  rw [laneAt_eq_of_chi A, laneAt_eq_of_chi B, h]

theorem iota_involutive (rnd : Nat) : Function.Involutive (iota rnd) := by
  intro A
  simp only [iota, Vector.getElem_set_self, Vector.set_set, BitVec.xor_assoc, BitVec.xor_self, BitVec.xor_zero,
    Vector.set_getElem_self]

/-! ### The rounds -/

theorem keccakRound_injective (rnd : Nat) : Function.Injective (keccakRound rnd) :=
  (iota_involutive rnd).injective.comp <| chi_injective.comp <| piStep_injective.comp <|
    rho_injective.comp theta_injective

theorem foldl_injective {α β : Type} {f : β → α → β} (hf : ∀ a, Function.Injective fun b => f b a)
    (l : List α) : Function.Injective fun b => l.foldl f b := by
  induction l with
  | nil => exact Function.injective_id
  | cons a l ih => exact ih.comp (hf a)

theorem keccakF_injective : Function.Injective keccakF := foldl_injective keccakRound_injective _

theorem finite_lanes : Finite Lanes :=
  Finite.of_injective (fun (A : Lanes) (i : Fin 25) => A[i]) fun _ _ h =>
    Vector.ext fun i hi => congrFun h ⟨i, hi⟩

/-- Settles O51: 24 injective rounds, on finitely many states. -/
theorem keccakIsABijection : Obligations.KeccakIsABijection :=
  haveI := finite_lanes
  Finite.injective_iff_bijective.mp keccakF_injective

end Sys2Proof.Machine
end

section
/-! PROOF. The sponge controller on its own (spec/46_sponge.md R311, R314, R315): absorbing lane by lane, the padded
block as the partial block and then the padding, and the squeezed output byte by byte. -/

namespace Sys2Proof.Machine

/-! ### Absorbing -/

@[simp] theorem xorPrefix_cons_cons (s b : Byte) (S B : List Byte) :
    xorPrefix (s :: S) (b :: B) = (s ^^^ b) :: xorPrefix S B := rfl

@[simp] theorem xorPrefix_nil_left (B : List Byte) : xorPrefix [] B = [] := rfl

@[simp] theorem xorPrefix_nil_right (S : List Byte) : xorPrefix S [] = S := by
  cases S <;> rfl

theorem take_xorPrefix (S B : List Byte) (n : Nat) : (xorPrefix S B).take n = xorPrefix (S.take n) (B.take n) := by
  induction n generalizing S B with
  | zero => simp
  | succ n ih => cases S <;> cases B <;> simp [ih]

theorem drop_xorPrefix (S B : List Byte) (n : Nat) : (xorPrefix S B).drop n = xorPrefix (S.drop n) (B.drop n) := by
  induction n generalizing S B with
  | zero => rfl
  | succ n ih => cases S <;> cases B <;> simp [ih]

theorem bytesAt_xorPrefix (S B : List Byte) (i n : Nat) :
    bytesAt (xorPrefix S B) i n = xorPrefix (bytesAt S i n) (bytesAt B i n) := by
  simp only [bytesAt, drop_xorPrefix, take_xorPrefix]

/-- A number and its lowest byte are XORed apart. -/
theorem xor_byte_add (s b : Byte) (x y : Nat) :
    (s.toNat + 256 * x) ^^^ (b.toNat + 256 * y) = (s ^^^ b).toNat + 256 * (x ^^^ y) := by
  have hbit (c : Byte) (z j : Nat) :
      (c.toNat + 256 * z).testBit j = if j < 8 then c.toNat.testBit j else z.testBit (j - 8) := by
    rw [Nat.add_comm]
    exact Nat.testBit_two_pow_mul_add z c.isLt j
  refine Nat.eq_of_testBit_eq fun j => ?_
  rw [Nat.testBit_xor, hbit, hbit, hbit, BitVec.toNat_xor]
  split <;> rw [Nat.testBit_xor]

theorem leNat_xorPrefix {S B : List Byte} (h : B.length ≤ S.length) :
    leNat (xorPrefix S B) = leNat S ^^^ leNat B := by
  induction S generalizing B with
  | nil => simp [List.eq_nil_of_length_eq_zero (Nat.le_zero.mp h), leNat]
  | cons s S ih =>
    cases B with
    | nil => simp [leNat]
    | cons b B => rw [xorPrefix_cons_cons, leNat, leNat, leNat, ih (Nat.le_of_succ_le_succ h), xor_byte_add]

/-- A lane of the XORed bytes is the XOR of the two lanes, the bytes past the end of the block counting as 0. -/
theorem le64_xorPrefix {S B : List Byte} (h : B.length ≤ S.length) (i : Nat) :
    le64 (xorPrefix S B) i = le64 S i ^^^ le64 B i := by
  have hlen : (bytesAt B i 8).length ≤ (bytesAt S i 8).length := by
    simp only [bytesAt, List.length_take, List.length_drop]
    omega
  rw [le64, bytesAt_xorPrefix, leNat_xorPrefix hlen, BitVec.ofNat_xor, le64, le64]

theorem le64_of_length_le {B : List Byte} {i : Nat} (h : B.length ≤ i) : le64 B i = 0 := by
  rw [le64, bytesAt, List.drop_eq_nil_of_le h]
  rfl

theorem le64_bytesOfLanes (A : Lanes) {i : Nat} (hi : i < 25) : le64 (bytesOfLanes A) (8 * i) = A[i] := by
  rw [← getElem_lanesOfBytes _ hi, lanesOfBytes_bytesOfLanes]

/-- Settles O52: each lane is XORed with the block's lane, which is 0 from RATE/8 on. -/
theorem absorbByLanes : Obligations.AbsorbByLanes := by
  intro A B rate hB hmod hrate
  rw [spongeAbsorb]
  refine congrArg keccakF (Vector.ext fun i hi => ?_)
  rw [getElem_lanesOfBytes _ hi, le64_xorPrefix (by rwa [hB, length_bytesOfLanes]), le64_bytesOfLanes A hi,
    Vector.getElem_ofFn]
  by_cases hlane : i < rate / 8
  · rw [if_pos hlane]
    rfl
  · rw [if_neg hlane, le64_of_length_le (by omega)]
    exact BitVec.xor_zero

/-! ### Padding -/

/-- Padding depends on the length of the partial block only. -/
theorem spongePadding_mod (ds : Byte) (rate len : Nat) :
    spongePadding ds rate (len % rate) = spongePadding ds rate len := by
  simp only [spongePadding, Nat.mod_mod]

section padding
variable (ds : Byte) {rate n : Nat}

theorem spongePadding_of_one_free (h : n + 1 = rate) : spongePadding ds rate n = [ds ||| 0x80] := by
  rw [spongePadding, Nat.mod_eq_of_lt (by omega), if_pos (by omega)]

theorem spongePadding_of_more_free (h : n + 1 < rate) :
    spongePadding ds rate n = [ds] ++ zeros (rate - n - 2) ++ [0x80] := by
  rw [spongePadding, Nat.mod_eq_of_lt (by omega), if_neg (by omega)]

theorem length_spongePadding (h : n < rate) : (spongePadding ds rate n).length = rate - n := by
  rcases (Nat.succ_le_of_lt h).eq_or_lt with hone | hmore
  · rw [spongePadding_of_one_free ds hone, List.length_singleton]
    omega
  · simp [spongePadding_of_more_free ds hmore]
    omega

/-- The padded block is the partial block, then the padding of a message of its length (R314). -/
theorem spongePad_eq_append {P : List Byte} (h : P.length < rate) :
    spongePad ds rate P = P ++ spongePadding ds rate P.length := by
  rcases (Nat.succ_le_of_lt h).eq_or_lt with hone | hmore
  · obtain rfl : P.length + 1 = rate := hone
    rw [spongePadding_of_one_free ds rfl]
    simp [spongePad, zeros]
  · obtain ⟨k, rfl⟩ : ∃ k, rate = P.length + (k + 2) := ⟨rate - P.length - 2, by omega⟩
    have hzeros : zeros (k + 2) = 0 :: (zeros k ++ [0]) := by
      rw [zeros, List.replicate_succ, List.replicate_succ', zeros]
    rw [spongePadding_of_more_free ds hmore, spongePad, if_neg (by omega), Nat.add_sub_cancel_left, hzeros]
    simp

theorem length_spongePad {P : List Byte} (h : P.length < rate) : (spongePad ds rate P).length = rate := by
  rw [spongePad_eq_append ds h, List.length_append, length_spongePadding ds h]
  omega

end padding

/-- Settles O53: the padded block is P and then the padding, which is one merged byte, or DS, zeros and 0x80. -/
theorem spongePaddingBytes : Obligations.SpongePadding := by
  intro a ds rate P ha hP
  have hds : domainByte a = ds := by
    simp only [List.mem_cons, List.not_mem_nil, or_false, Prod.mk.injEq] at ha
    rcases ha with ⟨rfl, rfl⟩ | ⟨rfl, rfl⟩ | ⟨rfl, rfl⟩ <;> rfl
  have hpad (k : Nat) (hk : P.length ≤ k) :
      (spongePad ds rate P).getD k 0 = (spongePadding ds rate P.length).getD (k - P.length) 0 := by
    rw [spongePad_eq_append ds hP, List.getD_append_right _ _ _ _ hk]
  rw [hds]
  refine ⟨length_spongePad ds hP, fun k hk => ?_, fun hone => ?_, fun hmore => ?_⟩
  · rw [spongePad_eq_append ds hP, List.getD_append _ _ _ _ hk]
  · rw [hpad _ le_rfl, spongePadding_of_one_free ds (by omega), Nat.sub_self]
    rfl
  · rw [spongePadding_of_more_free ds (by omega)] at hpad
    refine ⟨?_, ?_, fun k hk hlast => ?_⟩
    · rw [hpad _ le_rfl, Nat.sub_self]
      rfl
    · have hend : rate - 1 - P.length = ([ds] ++ zeros (rate - P.length - 2)).length := by
        simp
        omega
      rw [hpad _ (by omega), hend, List.getD_append_right _ _ _ _ le_rfl, Nat.sub_self]
      rfl
    · obtain ⟨j, rfl⟩ : ∃ j, k = P.length + (j + 1) := ⟨k - P.length - 1, by omega⟩
      rw [hpad _ (by omega), Nat.add_sub_cancel_left, List.getD_append _ _ _ _ (by simp; omega),
        List.singleton_append, List.getD_cons_succ, zeros,
        List.getD_replicate _ (by omega)]

/-! ### Squeezing -/

/-- What a state gives, byte by byte, with enough permutations for the output left. -/
theorem getD_squeezeLoop {rate : Nat} (hpos : 0 < rate) (hrate : rate ≤ 200) (fuel : Nat) :
    ∀ (A : Lanes) (n : Nat), n ≤ rate + fuel → ∀ k < n,
      (squeezeLoop rate fuel A n).getD k 0 = (bytesOfLanes (keccakF^[k / rate] A)).getD (k % rate) 0 := by
  have hfirst (A : Lanes) {n k : Nat} (hn : k < n) (hk : k < rate) :
      ((bytesOfLanes A).take (min rate n)).getD k 0 = (bytesOfLanes (keccakF^[k / rate] A)).getD (k % rate) 0 := by
    rw [Nat.div_eq_of_lt hk, Nat.mod_eq_of_lt hk, Function.iterate_zero_apply, List.getD_eq_getElem?_getD,
      List.getElem?_take_of_lt (lt_min hk hn), ← List.getD_eq_getElem?_getD]
  induction fuel with
  | zero => exact fun A n hn k hk => hfirst A hk (by omega)
  | succ fuel ih =>
    intro A n hn k hk
    have hlen : ((bytesOfLanes A).take (min rate n)).length = min rate n := by
      rw [List.length_take, length_bytesOfLanes]
      omega
    rw [squeezeLoop]
    by_cases hkr : k < rate
    · rw [List.getD_append _ _ _ _ (by omega), hfirst A hk hkr]
    · rw [List.getD_append_right _ _ _ _ (by omega), hlen, if_neg (by omega), Nat.min_eq_left (by omega),
        ih _ _ (by omega) _ (by omega), ← Function.iterate_succ_apply, Nat.succ_eq_add_one,
        ← Nat.div_eq_sub_div hpos (by omega), ← Nat.mod_eq_sub_mod (by omega)]

/-- Settles O54: as many permutations as bytes are enough for a rate that is not 0. -/
theorem squeezeBytes : Obligations.SqueezeBytes := fun _ A n hpos hrate =>
  ⟨length_squeezeLoop hpos hrate n A n (by omega), getD_squeezeLoop hpos hrate n A n (by omega)⟩

/-- An output that fits the rate needs no further permutation (R315). -/
theorem squeeze_of_le {rate n : Nat} (h : n ≤ rate) (A : Lanes) : squeeze rate A n = (bytesOfLanes A).take n := by
  cases n with
  | zero => simp [squeeze, squeezeLoop]
  | succ n => rw [squeeze, squeezeLoop, if_pos h, List.append_nil, Nat.min_eq_right h]

/-- A shorter output is the front of a longer one (R318). -/
theorem squeeze_eq_take {rate n n' : Nat} (hpos : 0 < rate) (hrate : rate ≤ 200) (h : n ≤ n') (A : Lanes) :
    squeeze rate A n = (squeeze rate A n').take n := by
  obtain ⟨hlen, hbyte⟩ := squeezeBytes rate A n hpos hrate
  obtain ⟨hlen', hbyte'⟩ := squeezeBytes rate A n' hpos hrate
  refine List.ext_getElem (by rw [hlen, List.length_take, hlen', Nat.min_eq_left h]) fun k hk hk' => ?_
  rw [List.getElem_take, ← List.getD_eq_getElem _ 0, ← List.getD_eq_getElem _ 0, hbyte k (by omega),
    hbyte' k (by omega)]

end Sys2Proof.Machine
end

section
/-! PROOF. The digests of SHA-3 and SHAKE (spec/46_sponge.md R316 to R318): the blocks that INPUT and finalization
absorb are the blocks of the padded message. -/

namespace Sys2Proof.Machine

/-- The algorithms of 46_sponge.md R310. -/
def spongeAlgs : List Alg := [.sha3, .shake128, .shake256]

theorem mem_spongeAlgs {a : Alg} : a ∈ spongeAlgs ↔ a = .sha3 ∨ a = .shake128 ∨ a = .shake256 := by
  simp only [spongeAlgs, List.mem_cons, List.not_mem_nil, or_false]

section configured
variable {c : Cfg} {a : Alg} (halg : c.alg = some a) (ha : a ∈ spongeAlgs)
include halg ha

theorem transformBlock_of_sponge (e : Engine) (B : List Byte) : transformBlock c e B = spongeTransformBlock e B := by
  rcases mem_spongeAlgs.mp ha with rfl | rfl | rfl <;> simp only [transformBlock, halg]

theorem freshEngine_of_sponge : freshEngine c = Engine.zero := by
  rcases mem_spongeAlgs.mp ha with rfl | rfl | rfl <;> simp only [freshEngine, resetState, halg]

/-- The digest squeezes DLEN bytes from the state after the padded partial block is absorbed (R316). -/
theorem digestBytes_of_sponge (e : Engine) :
    digestBytes c e = squeeze c.blk.toNat
      (spongeAbsorb e.lanes (spongePad (domainByte a) c.blk.toNat (partialBlock e))) c.dlen.toNat := by
  rcases mem_spongeAlgs.mp ha with rfl | rfl | rfl <;> simp only [digestBytes, transformFinal, halg, spongeFinal]

end configured

/-! ### SHA-3 -/

theorem Cfg.dlen_le_blk_of_sha3 {c : Cfg} (hok : c.ok = true) (halg : c.alg = some .sha3) :
    c.dlen.toNat ≤ c.blk.toNat := by
  simp only [Cfg.ok, halg, Bool.and_eq_true, decide_eq_true_eq] at hok
  obtain ⟨⟨-, hd, hb⟩ | ⟨-, hd, hb⟩ | ⟨-, hd, hb⟩ | ⟨-, hd, hb⟩, -⟩ := hok <;> simp [hd, hb]

/-- Settles O55: every SHA-3 digest fits its rate. -/
theorem sha3SqueezesOnce : Obligations.Sha3SqueezesOnce := by
  intro I M hok halg _
  have hle := Cfg.dlen_le_blk_of_sha3 hok halg
  exact ⟨hle, by rw [digestBytes_of_sponge halg (by decide), squeeze_of_le hle]; rfl⟩

/-! ### SHAKE -/

/-- DLEN has no part in absorbing. -/
theorem inputBytes_setDlen (c : Cfg) (d : BitVec 64) (e : Engine) (M : List Byte) :
    inputBytes { c with dlen := d } e M = inputBytes c e M := rfl

/-- Settles O56: both engines absorb the same, and the digests are squeezed from one state. -/
theorem shakePrefix : Obligations.ShakePrefix := by
  intro a blk n n' M I J ha hn hn' hI hJ hMI hMJ
  have hspec : a ∈ spongeAlgs ∧ domainByte a = 0x1F ∧ 0 < blk ∧ blk ≤ 200 := by
    simp only [List.mem_cons, List.not_mem_nil, or_false, Prod.mk.injEq] at ha
    rcases ha with ⟨rfl, rfl⟩ | ⟨rfl, rfl⟩ <;> decide
  obtain ⟨hmem, hds, hpos, hrate⟩ := hspec
  have halgI : I.cfg.alg = some a := by rw [hI]; rfl
  have halgJ : J.cfg.alg = some a := by rw [hJ]; rfl
  have heng : I.eng = J.eng := by
    rw [hMI, hMJ, freshEngine_of_sponge halgI hmem, freshEngine_of_sponge halgJ hmem, hI, hJ]
    exact inputBytes_setDlen (Cfg.unkeyed a 0 n' blk) (BitVec.ofNat 64 n) Engine.zero M
  refine ⟨?_, by rw [heng]⟩
  rw [digestBytes_of_sponge halgI hmem, digestBytes_of_sponge halgJ hmem, heng, hI, hJ]
  simp only [Cfg.unkeyed, BitVec.toNat_ofNat]
  rw [Nat.mod_eq_of_lt (by omega : n < 2 ^ 64), Nat.mod_eq_of_lt (by omega : n' < 2 ^ 64),
    Nat.mod_eq_of_lt (by omega : blk < 2 ^ 8)]
  exact squeeze_eq_take hpos hrate hn _

/-! ### The whole message -/

section holds
variable {I : Inst} {M : List Byte} (hM : I.holds M)
include hM

/-- Where a padding completes the partial block to one whole block, the blocks of the padded message are those that
INPUT hands over, then that one. -/
theorem Inst.holds.blocksOf_append (hok : I.cfg.ok = true) {pad : List Byte}
    (hlen : (partialBlock I.eng ++ pad).length = I.cfg.blk.toNat) :
    blocksOf I.cfg.blk.toNat (M ++ pad) =
      absorbTrace I.cfg (freshEngine I.cfg) M ++ [partialBlock I.eng ++ pad] := by
  obtain ⟨hpos, -⟩ := Cfg.blk_of_ok hok
  have hsplit : M ++ pad =
      (absorbTrace I.cfg (freshEngine I.cfg) M).flatten ++ (partialBlock I.eng ++ pad ++ []) := by
    rw [List.append_nil, ← List.append_assoc, hM.message_eq hok]
  rw [hsplit, blocksOf_flatten_append hpos _ (length_of_mem_absorbTrace_freshEngine hok M),
    blocksOf_append_block hpos hlen, blocksOf_short (D := []) hpos]

/-- The lanes of an engine that holds a message: the blocks handed over, absorbed from zero (R311, R313). -/
theorem Inst.holds.lanes_eq {a : Alg} (halg : I.cfg.alg = some a) (ha : a ∈ spongeAlgs) : I.eng.lanes =
    (absorbTrace I.cfg (freshEngine I.cfg) M).foldl spongeAbsorb (Vector.replicate 25 0) := by
  rw [hM.field_eq_foldl Engine.lanes (g := spongeAbsorb)
    (fun e B => by rw [transformBlock_of_sponge halg ha]; rfl) fun _ _ _ _ => rfl, freshEngine_of_sponge halg ha]
  rfl

end holds

/-- Settles O57: the padded partial block is the last block of the padded message. -/
theorem spongeDigestIsTheHash : Obligations.SpongeDigestIsTheHash := by
  intro I M a hok halg hM ha
  obtain ⟨hpos, -⟩ := Cfg.blk_of_ok hok
  have hP : (partialBlock I.eng).length = M.length % I.cfg.blk.toNat := by
    rw [hM]
    exact (length_absorbTrace_freshEngine hok M).2
  have hlt : (partialBlock I.eng).length < I.cfg.blk.toNat := hP ▸ Nat.mod_lt _ hpos
  have hpad : spongePad (domainByte a) I.cfg.blk.toNat (partialBlock I.eng) =
      partialBlock I.eng ++ spongePadding (domainByte a) I.cfg.blk.toNat M.length := by
    rw [spongePad_eq_append _ hlt, hP, spongePadding_mod]
  have hlen := length_spongePad (domainByte a) hlt
  rw [hpad] at hlen
  rw [digestBytes_of_sponge halg ha, hpad, hM.lanes_eq halg ha, spongeHash, hM.blocksOf_append hok hlen,
    List.foldl_append, List.foldl_cons, List.foldl_nil]

end Sys2Proof.Machine
end

section
/-! PROOF. BLAKE2b (spec/47_blake2b.md R341 to R348): the engine that holds a block back compresses the blocks of the
whole data in order, the last of them with the flag, and counts the bytes of that data. -/

namespace Sys2Proof.Machine

/-! ### The block held back -/

/-- The engine once the block it holds back, if any, is compressed as one that is not the last (R342, R346). -/
def blakeFlushed (e : Engine) : Engine := if e.pend then blakeFlush e false else e

theorem blakeFlushed_blakeTransformBlock_blakeT (e : Engine) (B : List Byte) :
    (blakeFlushed (blakeTransformBlock e B)).blakeT = (blakeFlushed e).blakeT + 128 := rfl

theorem blakeFlushed_blakeTransformBlock_blakeH (e : Engine) {B : List Byte} (hB : B.length = 128) :
    (blakeFlushed (blakeTransformBlock e B)).blakeH =
      blakeF (blakeFlushed e).blakeH B ((blakeFlushed e).blakeT + 128) false := by
  conv_rhs => rw [← toList_padVec_of_length hB]
  rfl

section partialBlock
variable {e : Engine} {P : List Byte}

theorem blakeFinalState_of_whole (h : P.length = 0 ∧ e.pend = true) : blakeFinalState e P = blakeFlush e true :=
  if_pos h

theorem blakeFinalState_of_partial (h : ¬(P.length = 0 ∧ e.pend = true)) :
    blakeFinalState e P = blakeLast (blakeFlushed e) P := if_neg h

end partialBlock

/-- With no partial block, the whole block held back is compressed as a last block of 128 bytes (R346). -/
theorem blakeFinalState_blakeTransformBlock_nil (e : Engine) {B : List Byte} (hB : B.length = 128) :
    (blakeFinalState (blakeTransformBlock e B) []).blakeT = (blakeLast (blakeFlushed e) B).blakeT ∧
      (blakeFinalState (blakeTransformBlock e B) []).blakeH = (blakeLast (blakeFlushed e) B).blakeH := by
  have hpad : B ++ zeros (128 - B.length) = (padVec 128 B).toList := by
    rw [toList_padVec_of_length hB, hB]
    exact List.append_nil B
  rw [blakeLast, hpad, hB]
  exact ⟨rfl, rfl⟩

theorem blakeFlushed_setBuffer (e : Engine) (buf off len) :
    blakeFlushed (e.setBuffer buf off len) = (blakeFlushed e).setBuffer buf off len := by
  obtain ⟨_, _, _, _, _, _, _, _, _, pend, _⟩ := e
  cases pend <;> rfl

/-- Finalization neither reads nor writes the buffer, the offset or the length counter. -/
theorem blakeFinalState_setBuffer (e : Engine) (buf off len) (P : List Byte) :
    blakeFinalState (e.setBuffer buf off len) P = (blakeFinalState e P).setBuffer buf off len := by
  by_cases h : P.length = 0 ∧ e.pend = true
  · rw [blakeFinalState_of_whole h, blakeFinalState_of_whole (e := e.setBuffer buf off len) h]
    rfl
  · rw [blakeFinalState_of_partial h, blakeFinalState_of_partial (e := e.setBuffer buf off len) h,
      blakeFlushed_setBuffer]
    rfl

/-! ### The engine after whole blocks -/

/-- The engine after the blocks `Bs`, the key block among them, from the chaining values of R341. -/
def blakeAfter (c : Cfg) (Bs : List (List Byte)) : Engine :=
  Bs.foldl blakeTransformBlock (blakeInit c Engine.zero)

/-- Compress block `i` of the data `D`, not the last one, with the count of the bytes up to its end (R342, R348). -/
def blakeStep (D : List Byte) (h : Vector Lane 8) (i : Nat) : Vector Lane 8 :=
  blakeF h (bytesAt D (128 * i) 128) (BitVec.ofNat 128 (128 * (i + 1))) false

/-- Block `k` of data that begins with `k` whole blocks. -/
theorem bytesAt_flatten_append {Bs : List (List Byte)} (hBs : ∀ B ∈ Bs, B.length = 128) {B : List Byte}
    (hB : B.length = 128) (R : List Byte) : bytesAt (Bs.flatten ++ (B ++ R)) (128 * Bs.length) 128 = B := by
  have hlen : 128 * Bs.length = Bs.flatten.length := by rw [length_flatten_of_forall hBs, Nat.mul_comm]
  rw [bytesAt, hlen, List.drop_left, ← hB, List.take_left]

section blakeAfter
variable (c : Cfg)

theorem blakeAfter_concat (Bs : List (List Byte)) (B : List Byte) :
    blakeAfter c (Bs ++ [B]) = blakeTransformBlock (blakeAfter c Bs) B := List.foldl_concat ..

theorem pend_blakeAfter (Bs : List (List Byte)) : (blakeAfter c Bs).pend = true ↔ Bs ≠ [] := by
  rcases List.eq_nil_or_concat' Bs with rfl | ⟨Bs, B, rfl⟩
  · simp [blakeAfter, blakeInit]
  · simp [blakeAfter_concat, blakeTransformBlock]

/-- Every whole block counts 128 bytes. -/
theorem blakeT_blakeFlushed_blakeAfter (Bs : List (List Byte)) :
    (blakeFlushed (blakeAfter c Bs)).blakeT = BitVec.ofNat 128 (128 * Bs.length) := by
  induction Bs using List.reverseRecOn with
  | nil => rfl
  | append_singleton Bs B ih =>
    rw [blakeAfter_concat, blakeFlushed_blakeTransformBlock_blakeT, ih, List.length_append, Nat.mul_add,
      BitVec.ofNat_add]
    rfl

/-- The chaining values after whole blocks: each compressed with its count, whatever data follows. -/
theorem blakeH_blakeFlushed_blakeAfter {Bs : List (List Byte)} (hBs : ∀ B ∈ Bs, B.length = 128) :
    ∀ R : List Byte, (blakeFlushed (blakeAfter c Bs)).blakeH =
      (List.range Bs.length).foldl (blakeStep (Bs.flatten ++ R)) (blakeInit c Engine.zero).blakeH := by
  induction Bs using List.reverseRecOn with
  | nil => exact fun _ => rfl
  | append_singleton Bs B ih =>
    intro R
    rw [List.forall_mem_append, List.forall_mem_singleton] at hBs
    obtain ⟨hBs, hB⟩ := hBs
    have hcount : BitVec.ofNat 128 (128 * Bs.length) + 128 = BitVec.ofNat 128 (128 * (Bs.length + 1)) := by
      rw [Nat.mul_succ, BitVec.ofNat_add]
      rfl
    rw [blakeAfter_concat, blakeFlushed_blakeTransformBlock_blakeH _ hB, ih hBs (B ++ R),
      blakeT_blakeFlushed_blakeAfter, hcount, List.flatten_append, List.flatten_singleton, List.append_assoc,
      List.length_append, List.length_singleton, List.range_succ, List.foldl_concat, blakeStep,
      bytesAt_flatten_append hBs hB]

end blakeAfter

/-! ### The whole data -/

/-- The chaining values after the blocks of the data `D`, the last one zero-padded and flagged, as `blakeHash`
computes them. -/
def blakeChain (h : Vector Lane 8) (D : List Byte) : Vector Lane 8 :=
  (List.range (blakeBlockCount D.length)).foldl
    (fun h i => blakeF h (bytesAt (D ++ zeros (128 * blakeBlockCount D.length - D.length)) (128 * i) 128)
      (BitVec.ofNat 128 (min (128 * (i + 1)) D.length)) (decide (i + 1 = blakeBlockCount D.length))) h

theorem blakeHash_eq (c : Cfg) (M : List Byte) :
    blakeHash c M =
      (blakeSerialize (blakeChain (blakeInit c Engine.zero).blakeH (blakeData c M))).take c.dlen.toNat := rfl

theorem blakeBlockCount_of_split {k l : Nat} (hl : l ≤ 128) (hk : l = 0 → k = 0) :
    blakeBlockCount (128 * k + l) = k + 1 := by
  unfold blakeBlockCount
  omega

section split
variable {Cs : List (List Byte)} {L : List Byte} (hCs : ∀ B ∈ Cs, B.length = 128) (hL : L.length ≤ 128)
  (hne : L = [] → Cs = [])
include hCs

theorem length_flatten_append : (Cs.flatten ++ L).length = 128 * Cs.length + L.length := by
  rw [List.length_append, length_flatten_of_forall hCs, Nat.mul_comm]

include hL hne

/-- Data cut into whole blocks and a last one, which is empty only where it is the only one: the last one alone is
padded and flagged, and counts all the data. -/
theorem blakeChain_flatten_append (h : Vector Lane 8) :
    blakeChain h (Cs.flatten ++ L) =
      blakeF ((List.range Cs.length).foldl (blakeStep (Cs.flatten ++ (L ++ zeros (128 - L.length)))) h)
        (L ++ zeros (128 - L.length)) (BitVec.ofNat 128 (Cs.flatten ++ L).length) true := by
  have hlen := length_flatten_append hCs (L := L)
  have hcount : blakeBlockCount (Cs.flatten ++ L).length = Cs.length + 1 := by
    rw [hlen]
    exact blakeBlockCount_of_split hL fun h0 => by rw [hne (List.length_eq_zero_iff.mp h0)]; rfl
  have hzeros : 128 * (Cs.length + 1) - (Cs.flatten ++ L).length = 128 - L.length := by omega
  have hlast : bytesAt (Cs.flatten ++ (L ++ zeros (128 - L.length))) (128 * Cs.length) 128 =
      L ++ zeros (128 - L.length) := by
    have hfull : (L ++ zeros (128 - L.length)).length = 128 := by
      rw [List.length_append, length_zeros]
      omega
    simpa using bytesAt_flatten_append hCs hfull []
  rw [blakeChain, hcount, hzeros, List.append_assoc, List.range_succ, List.foldl_concat, hlast,
    Nat.min_eq_right (by omega), decide_eq_true rfl]
  refine congrArg (blakeF · _ _ true) (List.foldl_ext _ _ _ fun h i hi => ?_)
  have hi := List.mem_range.mp hi
  rw [Nat.min_eq_left (by omega), decide_eq_false (by omega), blakeStep]

/-- The last compression after the whole blocks: its counter and its chaining values are those of the whole data. -/
theorem blakeLast_blakeFlushed_blakeAfter (c : Cfg) :
    (blakeLast (blakeFlushed (blakeAfter c Cs)) L).blakeT = BitVec.ofNat 128 (Cs.flatten ++ L).length ∧
      (blakeLast (blakeFlushed (blakeAfter c Cs)) L).blakeH =
        blakeChain (blakeInit c Engine.zero).blakeH (Cs.flatten ++ L) := by
  have hcount : (blakeFlushed (blakeAfter c Cs)).blakeT + BitVec.ofNat 128 L.length =
      BitVec.ofNat 128 (Cs.flatten ++ L).length := by
    rw [blakeT_blakeFlushed_blakeAfter, ← BitVec.ofNat_add, length_flatten_append hCs]
  refine ⟨hcount, ?_⟩
  rw [blakeChain_flatten_append hCs hL hne, ← blakeH_blakeFlushed_blakeAfter c hCs, ← hcount]
  rfl

end split

/-- Finalization with a partial block: where that is empty, the block held back is the last one of the data. -/
theorem blakeFinalState_blakeAfter (c : Cfg) {Bs : List (List Byte)} (hBs : ∀ B ∈ Bs, B.length = 128)
    {P : List Byte} (hP : P.length < 128) :
    (blakeFinalState (blakeAfter c Bs) P).blakeT = BitVec.ofNat 128 (Bs.flatten ++ P).length ∧
      (blakeFinalState (blakeAfter c Bs) P).blakeH =
        blakeChain (blakeInit c Engine.zero).blakeH (Bs.flatten ++ P) := by
  by_cases h : P.length = 0 ∧ (blakeAfter c Bs).pend = true
  · obtain ⟨hempty, hpend⟩ := h
    obtain rfl := List.length_eq_zero_iff.mp hempty
    obtain ⟨Cs, B, rfl⟩ := (List.eq_nil_or_concat' Bs).resolve_left ((pend_blakeAfter c Bs).mp hpend)
    rw [List.forall_mem_append, List.forall_mem_singleton] at hBs
    obtain ⟨hCs, hB⟩ := hBs
    obtain ⟨hT, hH⟩ := blakeFinalState_blakeTransformBlock_nil (blakeAfter c Cs) hB
    rw [blakeAfter_concat, hT, hH, List.flatten_append, List.flatten_singleton, List.append_nil]
    exact blakeLast_blakeFlushed_blakeAfter hCs hB.le (fun h0 => by simp [h0] at hB) c
  · rw [blakeFinalState_of_partial h]
    refine blakeLast_blakeFlushed_blakeAfter hBs hP.le (fun h0 => ?_) c
    by_contra hne
    exact h ⟨by rw [h0]; rfl, (pend_blakeAfter c Bs).mpr hne⟩

/-! ### The key block, the message and the digest -/

/-- The blocks before those of INPUT: the key block, if there is a key (R341). -/
def blakeKeyBlocks (c : Cfg) : List (List Byte) := if 0 < c.keyLen.toNat then [blakeKeyBlock c] else []

theorem blakeData_eq (c : Cfg) (M : List Byte) : blakeData c M = (blakeKeyBlocks c).flatten ++ M := by
  unfold blakeData blakeKeyBlocks
  split <;> simp

section configured
variable {c : Cfg} (hc : c.alg = some .blake2b)
include hc

theorem freshEngine_eq_blakeAfter : freshEngine c = blakeAfter c (blakeKeyBlocks c) := by
  simp only [freshEngine, resetState, hc, blakeResetState, blakeKeyBlocks]
  split <;> rfl

theorem transformBlock_of_blake2b : transformBlock c = blakeTransformBlock := by
  funext e B
  simp only [transformBlock, hc]

theorem digestBytes_of_blake2b (e : Engine) :
    digestBytes c e = (blakeSerialize (blakeFinalState e (partialBlock e)).blakeH).take c.dlen.toNat := by
  simp only [digestBytes, transformFinal, hc, blakeFinal]

variable (hok : c.ok = true)
include hok

theorem Cfg.of_blake2b : c.blk.toNat = 128 ∧ c.keyLen.toNat ≤ 64 := by
  simp only [Cfg.ok, hc, Cfg.keyPadded, Bool.and_eq_true, decide_eq_true_eq] at hok
  obtain ⟨⟨-, hblk⟩, hkey, -⟩ := hok
  exact ⟨by rw [hblk]; rfl, hkey⟩

theorem length_blakeKeyBlock : (blakeKeyBlock c).length = 128 := by
  obtain ⟨-, hkey⟩ := Cfg.of_blake2b hc hok
  simp only [blakeKeyBlock, List.length_append, List.length_take, Vector.length_toList, length_zeros]
  omega

theorem length_of_mem_blakeKeyBlocks : ∀ B ∈ blakeKeyBlocks c, B.length = 128 := by
  unfold blakeKeyBlocks
  split
  · simpa using length_blakeKeyBlock hc hok
  · simp

theorem length_blakeData (M : List Byte) :
    (blakeData c M).length = (if 0 < c.keyLen.toNat then 128 else 0) + M.length := by
  rw [blakeData, List.length_append]
  split
  · rw [length_blakeKeyBlock hc hok]
  · rfl

end configured

section holds
variable {I : Inst} {M : List Byte} (hM : I.holds M) (halg : I.cfg.alg = some .blake2b)
include hM halg

/-- Apart from the buffer, the engine is that after the key block and the blocks that INPUT handed over. -/
theorem Inst.holds.eng_eq_blakeAfter : I.eng =
    (blakeAfter I.cfg (blakeKeyBlocks I.cfg ++ absorbTrace I.cfg (freshEngine I.cfg) M)).setBuffer
      I.eng.buf I.eng.off I.eng.len := by
  rw [blakeAfter, List.foldl_append, ← blakeAfter, ← freshEngine_eq_blakeAfter halg,
    ← transformBlock_of_blake2b halg]
  exact hM.eng_eq_fold

/-- The counter and the chaining values after finalization are those of the key block and the message. -/
theorem Inst.holds.blakeFinalState_eq (hok : I.cfg.ok = true) :
    (blakeFinalState I.eng (partialBlock I.eng)).blakeT = BitVec.ofNat 128 (blakeData I.cfg M).length ∧
      (blakeFinalState I.eng (partialBlock I.eng)).blakeH =
        blakeChain (blakeInit I.cfg Engine.zero).blakeH (blakeData I.cfg M) := by
  obtain ⟨hblk, -⟩ := Cfg.of_blake2b halg hok
  have hBs : ∀ B ∈ blakeKeyBlocks I.cfg ++ absorbTrace I.cfg (freshEngine I.cfg) M, B.length = 128 :=
    List.forall_mem_append.mpr
      ⟨length_of_mem_blakeKeyBlocks halg hok, hblk ▸ length_of_mem_absorbTrace_freshEngine hok M⟩
  have hP : (partialBlock I.eng).length < 128 := by
    have hoff := hM.off_lt hok
    rw [length_partialBlock (by omega)]
    omega
  have hdata : (blakeKeyBlocks I.cfg ++ absorbTrace I.cfg (freshEngine I.cfg) M).flatten ++ partialBlock I.eng =
      blakeData I.cfg M := by
    rw [List.flatten_append, List.append_assoc, hM.message_eq hok, blakeData_eq]
  have hfinal := blakeFinalState_blakeAfter I.cfg hBs hP
  rw [hdata] at hfinal
  rw [congrArg (blakeFinalState · (partialBlock I.eng)) (hM.eng_eq_blakeAfter halg), blakeFinalState_setBuffer]
  exact hfinal

end holds

/-- Settles O58: the counter is the length of the key block and the message. -/
theorem blakeFinalCounter : Obligations.BlakeFinalCounter := by
  intro I M hok halg hM
  obtain ⟨hT, -⟩ := hM.blakeFinalState_eq halg hok
  rw [hT, length_blakeData halg hok]

/-- Settles O59: the chaining values after finalization are those of the whole data, which the hash serializes. -/
theorem blakeDigestIsTheHash : Obligations.BlakeDigestIsTheHash := by
  intro I M hok halg hM
  obtain ⟨-, hH⟩ := hM.blakeFinalState_eq halg hok
  rw [digestBytes_of_blake2b halg, hH, blakeHash_eq]

end Sys2Proof.Machine
end

section
/-! PROOF. Hardware reset and power-on (spec/70_reset_and_hazards.md R400, R401). -/

namespace Sys2Proof.Machine

theorem Inst.readSlot_zero (offset : BitVec 8) : Inst.zero.readSlot offset = 0 := by
  unfold Inst.readSlot
  split <;> decide

theorem Inst.isReset_zero : Inst.zero.isReset := by
  refine ⟨⟨rfl, rfl, rfl, rfl⟩, ⟨rfl, rfl, rfl, rfl⟩, Inst.readSlot_zero, ⟨rfl, rfl, rfl, rfl, rfl⟩, ?_⟩
  simp [Inst.zero, Cfg.zero, Engine.zero]

theorem State.eq_zero_of_mem_powerOn {n : Fin (2 ^ 63 + 1)} {k : Nat} {hm : Memory} {J : Inst}
    (hJ : J ∈ (State.powerOn n k hm).instances) : J = Inst.zero :=
  List.eq_of_mem_replicate hJ

theorem State.reset_instances_ne_nil : State.reset.instances ≠ [] := by
  simp [State.reset, Config.ninst]

theorem State.isReset_of_mem_powerOn {n : Fin (2 ^ 63 + 1)} {k : Nat} {hm : Memory} :
    ∀ J ∈ (State.powerOn n k hm).instances, J.isReset := fun _ hJ =>
  State.eq_zero_of_mem_powerOn hJ ▸ Inst.isReset_zero

/-- A hardware reset resets every instance and keeps HM. -/
theorem step_hardwareReset {s : State} {rest : List HostAccess} (hp : s.program = .hardwareReset :: rest) :
    ∃ t, step s = .next t ∧ t.hm = s.hm ∧ t.instances.length = s.instances.length ∧
      ∀ J ∈ t.instances, J.isReset := by
  refine ⟨_, step_of_access hp rfl, rfl, List.length_map _, fun J hJ => ?_⟩
  obtain ⟨-, -, rfl⟩ := List.mem_map.mp hJ
  exact Inst.isReset_zero

/-- Every power-on state with an instance and a canonical HM inside HMSIZE meets the invariant. -/
theorem State.inv_powerOn {n : Fin (2 ^ 63 + 1)} {k : Nat} {hm : Memory} (hk : 1 ≤ k) (hwf : hm.wf = true)
    (hbelow : hm.below n = true) : (State.powerOn n k hm).Inv := by
  refine ⟨hwf, hbelow, ?_, fun J hJ => ?_⟩
  · simp
    omega
  · rw [State.eq_zero_of_mem_powerOn hJ]
    exact Inst.inv_zero

/-- Settles O6: State.reset is the power-on state with an empty list of bytes and NINST at least 1. -/
theorem resetMeetsInvariant : Obligations.ResetMeetsInvariant :=
  ⟨fun _ _ _ => State.inv_powerOn, State.inv_powerOn (Nat.le_add_left 1 _) rfl rfl⟩

end Sys2Proof.Machine

namespace Sys2Proof

/-- Settles O5: every instance after hardware reset and at power-on is `Inst.zero`, and every contents of HM is that
of a canonical list. It stands outside the namespace of the model's `hardwareReset`. -/
theorem hardwareReset : Obligations.HardwareReset :=
  ⟨fun _ _ => Machine.step_hardwareReset,
    fun _ _ _ => ⟨rfl, rfl, List.length_replicate, Machine.State.isReset_of_mem_powerOn⟩,
    fun n f => Machine.Memory.exists_contents f n, rfl, Machine.State.reset_instances_ne_nil,
    Machine.State.isReset_of_mem_powerOn⟩

end Sys2Proof
end

section
/-! PROOF. How a command begins and that it completes (spec/40_buffering_engine.md R120, 60_exceptions.md R370,
R373, R375, R378). -/

namespace Sys2Proof.Machine

/-! ### The checks every command makes first -/

/-- Every command begins with the check of FATAL. -/
theorem exec_eq_issue (i : Instr) (s : State) : ∃ body, exec i s = issue s body := by
  cases i <;> exact ⟨_, rfl⟩

/-- Every command other than CONFIGURE begins with the checks of FATAL and CONFIGURED. -/
theorem exec_eq_issueConfigured {i : Instr} (hi : i.isConfigure = false) (s : State) :
    ∃ body, exec i s = issueConfigured s body := by
  cases i with
  | input | digest | digest0 | reset => exact ⟨_, rfl⟩
  | _ => cases hi

/-- So does every CMD value, legal or not. -/
theorem execValue_eq_issue (v : Lane) (s : State) : ∃ body, execValue v s = issue s body := by
  unfold execValue
  cases decode v with
  | ok i => exact exec_eq_issue i s
  | error => exact ⟨_, rfl⟩

theorem execValue_none {s : State} (h : s.inst? = none) (v : Lane) : execValue v s = .fault .noSuchInstance := by
  obtain ⟨body, e⟩ := execValue_eq_issue v s
  rw [e, issue_none h]

section selected
variable {s : State} {I : Inst} (h : s.inst? = some I)
include h

theorem execValue_fatal (hf : I.fatal = true) (v : Lane) : execValue v s = raise .internalInvariant I s := by
  obtain ⟨body, e⟩ := execValue_eq_issue v s
  rw [e, issue_fatal h hf]

theorem exec_unconfigured {i : Instr} (hi : i.isConfigure = false) (hf : I.fatal = false)
    (hc : I.configured = false) : exec i s = raise .notConfigured I s := by
  obtain ⟨body, e⟩ := exec_eq_issueConfigured hi s
  rw [e, issueConfigured_unconfigured h hf hc]

theorem execValue_illegal (hf : I.fatal = false) {v : Lane} (hv : IllegalValue v) :
    execValue v s = raise .illegalCommand I s := by
  obtain ⟨hillegal, -⟩ := illegalCommandValues v
  obtain ⟨-, hraise⟩ := hillegal hv
  exact hraise s I h hf

theorem exec_digest_run (hf : I.fatal = false) (hc : I.configured = true) :
    exec .digest s = digestTo s I I.arg1.toInt I.arg2.toInt := issueConfigured_run h hf hc _

theorem exec_digest0_run (hf : I.fatal = false) (hc : I.configured = true) :
    exec .digest0 s = digestTo s I I.cfg.dlen.toNat 0 := issueConfigured_run h hf hc _

/-- A command leaves its instance in place. -/
theorem Effect.inst? {i : Instr} {t : State} (ef : Effect s I i t) : ∃ J, t.inst? = some J := by
  obtain ⟨m, K, rfl, -⟩ := ef.eq_commit
  exact ⟨K, State.inst?_commit (s := { s with hm := m }) h K⟩

/-- Every CMD value on an instance that exists has a next state. -/
theorem execValue_completes (v : Lane) : ∃ t J, execValue v s = .next t ∧ t.inst? = some J := by
  by_cases hv : ∃ i, decode v = .ok i
  · obtain ⟨i, hi⟩ := hv
    obtain ⟨t, e, ef⟩ := exec_effect i h
    obtain ⟨J, hJ⟩ := ef.inst? h
    exact ⟨t, J, (execValue_of_decode hi s).trans e, hJ⟩
  · obtain hf | hf := Bool.eq_false_or_eq_true I.fatal
    · exact ⟨_, _, execValue_fatal h hf v, State.inst?_commit h _⟩
    · have hill : IllegalValue v := by rwa [← not_illegalValue_iff_decode, not_not] at hv
      exact ⟨_, _, execValue_illegal h hf hill, State.inst?_commit h _⟩

end selected

/-- Settles O8: every command has an effect, an illegal value raises its error, and without an instance the first
check faults. -/
theorem everyCommandCompletes : Obligations.EveryCommandCompletes := by
  refine fun v s => ⟨fun hlt => ?_, fun hge => ?_⟩
  · obtain ⟨I, h⟩ := State.inst?_of_lt hlt
    obtain ⟨t, J, e, hJ⟩ := execValue_completes h v
    exact ⟨t, J.err, e, by simp [errAfter, hJ]⟩
  · exact execValue_none (List.getElem?_eq_none (Nat.le_of_not_lt hge)) v

end Sys2Proof.Machine
end

section
/-! PROOF. CONFIGURE and its errors (spec/40_buffering_engine.md R121, 60_exceptions.md R376, R388). -/

namespace Sys2Proof.Machine

/-- `Params` rejects exactly the configurations that R388 lists. -/
theorem paramsOf_eq_none_iff {i : Instr} {a : Alg} (hi : configureAlg i = some a) (a0 a2 : Int) :
    paramsOf a a0 a2 = none ↔ rejectedConfiguration i a0 a2 := by
  cases i with
  | configureUnsupported | input | digest | digest0 | reset => cases hi
  | configureBlake2b =>
    cases hi
    simp only [paramsOf, rejectedConfiguration, ite_eq_right_iff, reduceCtorEq, imp_false]
    omega
  | _ =>
    cases hi
    simp [paramsOf, rejectedConfiguration]

/-- What a configuring command does without FATAL: the two errors in their order, or the configuration. -/
theorem exec_isConfigure_cases {i : Instr} (hi : i.isConfigure = true) {s : State} {I : Inst}
    (h : s.inst? = some I) (hf : I.fatal = false) :
    (rejectedConfiguration i I.arg0.toInt I.arg2.toInt ∧ exec i s = raise .invalidConfiguration I s) ∨
    (¬rejectedConfiguration i I.arg0.toInt I.arg2.toInt ∧
      (i = .configureBlake2b ∧ ¬Valid s.hmSize I.arg1.toInt I.arg2.toInt) ∧
      exec i s = raise .invalidArgument I s) ∨
    (¬rejectedConfiguration i I.arg0.toInt I.arg2.toInt ∧
      (i = .configureBlake2b → Valid s.hmSize I.arg1.toInt I.arg2.toInt) ∧
      ∃ c, exec i s = .next (s.commit (I.construct c))) := by
  obtain ⟨a, ha⟩ | ⟨b, rfl⟩ := isConfigure_cases hi
  · have hrej := paramsOf_eq_none_iff ha I.arg0.toInt I.arg2.toInt
    have hblake : i = .configureBlake2b ↔ a = .blake2b := by
      cases i <;> cases ha <;> simp
    rw [← hrej, exec_configure ha, hblake]
    rcases configure_cases a s h with ⟨hf', -⟩ | ⟨-, hp, e⟩ | ⟨p, -, hp, hb, hv, e⟩ | ⟨p, -, hp, hv, e⟩
    · exact absurd (hf.symm.trans hf') nofun
    · exact .inl ⟨hp, e⟩
    · exact .inr (.inl ⟨by simp [hp], ⟨hb, hv⟩, e⟩)
    · exact .inr (.inr ⟨by simp [hp], hv, _, e⟩)
  · exact .inl ⟨trivial, configureUnsupportedCompletes s I b h hf⟩

/-- Settles O15: of the three ends of CONFIGURE only the first reports INVALID_CONFIGURATION. -/
theorem rejectedConfigurations : Obligations.RejectedConfigurations := by
  intro i s I h hf hi
  rcases exec_isConfigure_cases hi h hf with ⟨hr, e⟩ | ⟨hr, -, e⟩ | ⟨hr, -, c, e⟩
  · exact ⟨by simp [e, errAfter_raise h, hr], fun _ => e⟩
  · exact ⟨by simp [e, errAfter_raise h, hr], fun hr' => absurd hr' hr⟩
  · exact ⟨by simp [e, errAfter_commit h, hr], fun hr' => absurd hr' hr⟩

end Sys2Proof.Machine
end

section
/-! PROOF. CONFIGURED and NOT_CONFIGURED (spec/60_exceptions.md R373). -/

namespace Sys2Proof.Machine

/-- CONFIGURED after a command: it stays set, and only a CONFIGURE that ends in OK sets it. -/
theorem Effect.configured_iff {i : Instr} {s t : State} {I J : Inst} (ef : Effect s I i t) (h : s.inst? = some I)
    (hJ : t.inst? = some J) :
    J.configured = true ↔ I.configured = true ∨ i.isConfigure = true ∧ J.err = .ok := by
  cases ef with
  | raised _ e he =>
    cases (State.inst?_commit h _).symm.trans hJ
    simp [he]
  | fatal =>
    cases (State.inst?_commit h _).symm.trans hJ
    simp
  | configured _ a p hi =>
    cases (State.inst?_commit h _).symm.trans hJ
    simp [isConfigure_of_alg hi]
  | input _ hc =>
    cases (State.inst?_commit h _).symm.trans hJ
    simp [hc]
  | digest _ addr _ hc =>
    cases (finishDigest_inst? h addr).symm.trans hJ
    simp [hc]
  | reset _ hc =>
    cases (State.inst?_commit h _).symm.trans hJ
    simp [hc]

/-- Settles O17: by the first checks of a command, the ends of CONFIGURE and what each effect does to CONFIGURED. -/
theorem notConfigured : Obligations.NotConfigured := by
  refine ⟨fun i s I h hf => ⟨fun hc hi => exec_unconfigured h hi hf hc, fun hi => ?_⟩,
    fun i s t I J h he hJ => ?_, fun J hJ => ?_⟩
  · rcases exec_isConfigure_cases hi h hf with ⟨-, e⟩ | ⟨-, -, e⟩ | ⟨-, -, c, e⟩
    · simp [e, errAfter_raise h]
    · simp [e, errAfter_raise h]
    · simp [e, errAfter_commit h]
  · have hiff := (effect_of_exec h he).configured_iff h hJ
    exact ⟨fun hc => hiff.mpr (.inl hc), fun hc => by simpa [hc] using hiff⟩
  · rw [State.eq_zero_of_mem_powerOn hJ]
    rfl

end Sys2Proof.Machine
end

section
/-! PROOF. The errors of the commands: their order and their precision (spec/60_exceptions.md R376, R378). -/

namespace Sys2Proof.Machine

section errAfter
variable {s : State} {I : Inst} (h : s.inst? = some I)
include h

/-- The error of a digest: its operand check, in any decidable form, then the defensive check. -/
theorem errAfter_digestTo {size o : Int} {bad : Prop} [Decidable bad]
    (hiff : bad ↔ ¬(0 ≤ o ∧ (I.cfg.dlen.toNat : Int) ≤ size - o ∧ Valid s.hmSize I.arg0.toInt size)) :
    errAfter (digestTo s I size o) =
      if bad then some .invalidArgument
      else if I.eng.off.toNat < I.cfg.blk.toNat then some .ok else some .internalInvariant := by
  rcases digestTo_cases s I size o with ⟨hbad, e⟩ | ⟨hargs, ho, e⟩ | ⟨hargs, ho, e⟩
  · rw [e, errAfter_raise h, if_pos (hiff.mpr hbad)]
  · rw [e, errAfter_raiseFatal h, if_neg fun hbad => hiff.mp hbad hargs, if_neg ho]
  · rw [e, errAfter_finishDigest h, if_neg fun hbad => hiff.mp hbad hargs, if_pos ho]

/-- The error of INPUT: its operand check, in any decidable form. -/
theorem errAfter_input (hf : I.fatal = false) (hc : I.configured = true) {bad : Prop} [Decidable bad]
    (hiff : bad ↔ ¬(0 ≤ I.arg2.toInt ∧ 0 ≤ I.arg3.toInt ∧ I.arg2.toInt + I.arg3.toInt ≤ I.arg1.toInt ∧
      Valid s.hmSize I.arg0.toInt I.arg1.toInt)) :
    errAfter (exec .input s) = if bad then some .invalidArgument else some .ok := by
  rcases exec_input_cases s h hf hc with ⟨hargs, e⟩ | ⟨hbad, e⟩
  · rw [e, errAfter_commit h, if_neg fun hbad => hiff.mp hbad hargs]
  · rw [e, errAfter_raise h, if_pos (hiff.mpr hbad)]

end errAfter

/-- Settles O18: FATAL and illegal values first, then CONFIGURED, then the errors of each command in their order. -/
theorem errorPriority : Obligations.ErrorPriority := by
  intro v s I h
  refine ⟨fun hf => ?_, fun hf hv => ?_, fun i hf hi => ?_⟩
  · rw [execValue_fatal h hf, errAfter_raise h]
  · rw [execValue_illegal h hf hv, errAfter_raise h]
  rw [execValue_of_decode hi]
  refine ⟨fun hcfg hc => ?_, fun hcfg => ?_, fun hc hin => ?_, fun hc hdig => ?_, fun hc hdig => ?_,
    fun hc hres => ?_⟩
  · rw [exec_unconfigured h hcfg hf hc, errAfter_raise h]
  · rcases exec_isConfigure_cases hcfg h hf with ⟨hr, e⟩ | ⟨hr, ⟨hb, hv⟩, e⟩ | ⟨hr, hv, c, e⟩
    · exact ⟨fun _ => by rw [e, errAfter_raise h], fun hr' => absurd hr hr'⟩
    · exact ⟨fun hr' => absurd hr' hr, fun _ =>
        ⟨fun _ _ => by rw [e, errAfter_raise h], fun hv' => absurd (hv' hb) hv⟩⟩
    · exact ⟨fun hr' => absurd hr' hr, fun _ =>
        ⟨fun hb hv' => absurd (hv hb) hv', fun _ => by rw [e, errAfter_commit h, Inst.construct_err]⟩⟩
  · subst hin
    refine errAfter_input h hf hc ?_
    unfold Valid
    omega
  · subst hdig
    rw [exec_digest_run h hf hc]
    refine errAfter_digestTo h ?_
    unfold Valid
    omega
  · subst hdig
    rw [exec_digest0_run h hf hc]
    refine errAfter_digestTo h ?_
    unfold Valid
    omega
  · subst hres
    obtain ⟨e, -⟩ := resetCompletes s I h hf hc
    rw [e, errAfter_commit h]

/-- Every effect that reports an error is one of the two ways to fail. -/
theorem Effect.precise {i : Instr} {s t : State} {I : Inst} {e : ErrCode} (ef : Effect s I i t)
    (h : s.inst? = some I) (herr : errAfter (.next t) = some e) (he : e ≠ .ok) :
    t = s.commit { I with err := e } ∨
      e = .internalInvariant ∧ t = s.commit { I with fatal := true, err := e } := by
  cases ef with
  | raised =>
    rw [errAfter_commit h] at herr
    cases herr
    exact .inl rfl
  | fatal =>
    rw [errAfter_commit h] at herr
    cases herr
    exact .inr ⟨rfl, rfl⟩
  | digest =>
    rw [errAfter_finishDigest h] at herr
    cases herr
    exact absurd rfl he
  | configured | input | reset =>
    rw [errAfter_commit h] at herr
    cases herr
    exact absurd rfl he

/-- Settles O19: a command by its effect, an illegal value by the error it raises. -/
theorem errorsPrecise : Obligations.ErrorsPrecise := by
  intro v s t I e h he herr hne
  obtain ⟨I', hI', ⟨i, -, ef⟩ | ⟨e', -, rfl⟩⟩ := execValue_cases he
  · cases hI'.symm.trans h
    exact ef.precise h herr hne
  · cases hI'.symm.trans h
    rw [errAfter_commit h] at herr
    cases herr
    exact .inl rfl

end Sys2Proof.Machine
end

section
/-! PROOF. FATAL (spec/60_exceptions.md R375): how it is set, what it blocks, and that only hardware reset clears
it. -/

namespace Sys2Proof.Machine

/-- A digest whose operands pass the checks on a full buffer is the fatal path. -/
theorem digestTo_fatal {s : State} {I : Inst} {size o : Int} (hoff : ¬I.eng.off.toNat < I.cfg.blk.toNat)
    (ho : 0 ≤ o) (hsize : (I.cfg.dlen.toNat : Int) ≤ size - o) (hv : Valid s.hmSize I.arg0.toInt size) :
    digestTo s I size o = raiseFatal I s := by
  rcases digestTo_cases s I size o with ⟨hbad, -⟩ | ⟨-, -, e⟩ | ⟨-, hroom, -⟩
  · exact absurd ⟨ho, hsize, hv⟩ hbad
  · exact e
  · exact absurd hroom hoff

/-- A CMD value writes the instances by writing the selected one. -/
theorem instances_of_execValue {v : Lane} {s t : State} (he : execValue v s = .next t) :
    ∃ K, t.instances = s.instances.set s.sel K := by
  obtain ⟨I, -, ⟨i, -, ef⟩ | ⟨e, -, rfl⟩⟩ := execValue_cases he
  · obtain ⟨m, K, rfl, -⟩ := ef.eq_commit
    exact ⟨K, rfl⟩
  · exact ⟨_, rfl⟩

/-- A CMD value keeps every FATAL that is set: on its own instance it only writes ERR, and the others stay. -/
theorem fatal_of_execValue {v : Lane} {s t : State} {k : Nat} {I : Inst} (hI : s.instances[k]? = some I)
    (hf : I.fatal = true) (he : execValue v s = .next t) : ∃ J, t.instances[k]? = some J ∧ J.fatal = true := by
  by_cases hk : s.sel = k
  · subst hk
    cases (execValue_fatal hI hf v).symm.trans he
    exact ⟨_, State.inst?_commit hI _, hf⟩
  · obtain ⟨K, hK⟩ := instances_of_execValue he
    exact ⟨I, by rw [hK, List.getElem?_set_ne hk, hI], hf⟩

/-- What an access that is neither a command nor a hardware reset does to the instances: at most a write of a
window slot. -/
theorem instances_of_hostAccess {a : HostAccess} {s t : State} (ha : a ≠ .hardwareReset)
    (he : hostAccess a s = .next t) :
    t.instances = s.instances ∨ ∃ k I offset v, s.instances[k]? = some I ∧
      t.instances = s.instances.set k (I.writeSlot offset v) := by
  cases a with
  | regWrite k offset width v =>
    simp only [hostAccess, registerWrite] at he
    split at he
    · cases he
    · split at he <;> cases he
      case h_2 I hI => exact .inr ⟨k, I, offset, v, hI, rfl⟩
  | regRead k offset width =>
    simp only [hostAccess, registerRead] at he
    split at he
    · cases he
    · split at he <;> cases he
      exact .inl rfl
  | hmStore addr v =>
    simp only [hostAccess, hostStore] at he
    split at he <;> cases he
    exact .inl rfl
  | hmLoad addr =>
    simp only [hostAccess, hostLoad] at he
    split at he <;> cases he
    exact .inl rfl
  | hardwareReset => exact absurd rfl ha

@[simp] theorem Inst.writeSlot_fatal (I : Inst) (offset : BitVec 8) (v : Lane) :
    (I.writeSlot offset v).fatal = I.fatal := by
  obtain ⟨a0, a1, a2, a3, heq⟩ := I.writeSlot_eq_args offset v
  rw [heq]

theorem fatal_of_hostAccess {a : HostAccess} {s t : State} {k : Nat} {I : Inst} (ha : a ≠ .hardwareReset)
    (hI : s.instances[k]? = some I) (hf : I.fatal = true) (he : hostAccess a s = .next t) :
    ∃ J, t.instances[k]? = some J ∧ J.fatal = true := by
  rcases instances_of_hostAccess ha he with heq | ⟨l, K, offset, v, hK, heq⟩
  · exact ⟨I, heq ▸ hI, hf⟩
  · by_cases hl : l = k
    · subst hl
      cases hK.symm.trans hI
      obtain ⟨hlt, -⟩ := List.getElem?_eq_some_iff.mp hI
      exact ⟨_, by rw [heq, List.getElem?_set_self hlt], by rw [Inst.writeSlot_fatal, hf]⟩
    · exact ⟨I, by rw [heq, List.getElem?_set_ne hl, hI], hf⟩

/-- Every step but a hardware reset keeps every FATAL that is set. -/
theorem step_keeps_fatal {s t : State} {k : Nat} {I : Inst} (hI : s.instances[k]? = some I) (hf : I.fatal = true)
    (he : step s = .next t) (hreset : ∀ rest, s.program ≠ .hardwareReset :: rest) :
    ∃ J, t.instances[k]? = some J ∧ J.fatal = true := by
  cases hp : s.program with
  | nil =>
    rw [step, hp] at he
    cases he
    exact ⟨I, hI, hf⟩
  | cons a rest =>
    cases ha : commandOf a with
    | none =>
      rw [step_of_access hp ha] at he
      have hne : a ≠ .hardwareReset := fun heq => hreset rest (heq ▸ hp)
      exact fatal_of_hostAccess (s := { s with program := rest }) hne hI hf he
    | some c =>
      obtain ⟨l, v⟩ := c
      rw [step_of_command hp ha] at he
      exact fatal_of_execValue (s := { s with program := rest, sel := l }) hI hf he

/-- Settles O16: the fatal path of a digest, the first check of every CMD value, what a step keeps, and the
invariant. -/
theorem fatalIsFinal : Obligations.FatalIsFinal := by
  refine ⟨fun s I h hf hc hoff => ⟨fun ho hsize hv => ?_, fun hv => ?_⟩, fun v s I h hf => execValue_fatal h hf v,
    fun s t k I hI hf he hreset => step_keeps_fatal hI hf he hreset, fun s t hs he J hJ => ?_⟩
  · rw [exec_digest_run h hf hc, digestTo_fatal hoff ho hsize hv, raiseFatal]
  · rw [exec_digest0_run h hf hc, digestTo_fatal hoff le_rfl (by simp) hv, raiseFatal]
  · obtain ⟨-, -, -, hall⟩ := stepKeepsInvariant s t hs he
    obtain ⟨hf, herr, -⟩ := hall J hJ
    exact ⟨hf, herr⟩

end Sys2Proof.Machine
end

section
/-! PROOF. The work of an INPUT, and reuse after a digest (spec/70_reset_and_hazards.md R404, R410). -/

namespace Sys2Proof.Machine

/-- Settles O25: no byte is lost, so the lengths add up: whole blocks, then fewer than BLK bytes. -/
theorem inputWorkBound : Obligations.InputWorkBound := by
  intro c e bs hoff hblk
  have hkeep := absorbTrace_flatten_append_partialBlock hblk bs hoff
  have hlt := off_absorbBytes_lt hblk bs hoff
  have hlen : (absorbTrace c e bs).length * c.blk.toNat + (absorbBytes c e bs).off.toNat =
      e.off.toNat + bs.length := by
    have := congrArg List.length hkeep
    rwa [List.length_append, List.length_append,
      length_flatten_of_forall (length_of_mem_absorbTrace hblk bs hoff), length_partialBlock (hlt.le.trans hblk),
      length_partialBlock (hoff.le.trans hblk)] at this
  refine ⟨?_, ?_, hkeep⟩
  · rw [← hlen, Nat.mul_comm, Nat.mul_add_div (Nat.zero_lt_of_lt hoff), Nat.div_eq_of_lt hlt, Nat.add_zero]
  · rw [← hlen, inputBytes_off, Nat.mul_comm, Nat.mul_add_mod, Nat.mod_eq_of_lt hlt]

/-- Every successful command but INPUT leaves a freshly reset, configured instance. -/
theorem Effect.fresh_of_ok {i : Instr} {s t : State} {I J : Inst} (ef : Effect s I i t) (h : s.inst? = some I)
    (hJ : t.inst? = some J) (hi : i ≠ .input) (hok : J.err = .ok) :
    J.eng = freshEngine J.cfg ∧ J.configured = true ∧ J.fatal = false := by
  cases ef with
  | raised _ e he =>
    cases (State.inst?_commit h _).symm.trans hJ
    exact absurd hok he
  | fatal =>
    cases (State.inst?_commit h _).symm.trans hJ
    cases hok
  | configured _ a p _ hf =>
    cases (State.inst?_commit h _).symm.trans hJ
    exact ⟨rfl, rfl, hf⟩
  | input => exact absurd rfl hi
  | digest _ addr hf hc =>
    cases (finishDigest_inst? h addr).symm.trans hJ
    exact ⟨rfl, hc, hf⟩
  | reset hf hc =>
    cases (State.inst?_commit h _).symm.trans hJ
    exact ⟨rfl, hc, hf⟩

/-- Settles O32: both commands leave a freshly reset instance of one configuration, and the digest leaves ARG0 in
RESULT. -/
theorem reuseAfterDigest : Obligations.ReuseAfterDigest := by
  intro i d s t u w I J K L hi hs he hJ hJok hu hcfg hd hd' hL hLok
  have hi' : i ≠ .input := by rintro rfl; cases hi
  have hdne : d ≠ .input ∧ d.isConfigure = false := by rcases hd with rfl | rfl <;> exact ⟨nofun, rfl⟩
  have ef := effect_of_exec hu hd'
  obtain ⟨heng, hconf, hfatal⟩ := (effect_of_exec hs he).fresh_of_ok hs hJ hi' hJok
  obtain ⟨heng', hconf', hfatal'⟩ := ef.fresh_of_ok hu hL hdne.1 hLok
  obtain ⟨-, hframe, -⟩ := ef.inst_frame hu hL
  obtain ⟨hcfg', -⟩ := hframe (.inl hdne.2)
  have hc : L.cfg = J.cfg := hcfg'.trans hcfg
  exact ⟨hc, by rw [heng', heng, hc], hconf'.trans hconf.symm, hfatal'.trans hfatal.symm,
    ef.result_of_digest hu hL hd hLok⟩

end Sys2Proof.Machine
end
